-- ==== Sys2Proof/Word.lean ====
section
/-! DEFINITION. The two kinds of word the DC-40 exchanges: a byte and a 32-bit key or check (spec/12, R190, R191). -/

namespace Sys2Proof

/-- One byte of a line message or a port frame. -/
abbrev Byte := BitVec 8

/-- A kit key, an agent key or a keyed check (R4, R88, R191). -/
abbrev Word32 := BitVec 32

end Sys2Proof
end

