-- ==== Sys2Proof/Syntax.lean ====
section
/-! DEFINITION. The commands of the DC-40: one constructor for each row of spec/opcode_table.json.
The table gives its rows no operands; which operands a command has is log entry 4. -/

namespace Sys2Proof

/-- The four line units (section 3.5 of the introduction). -/
inductive LineNo where
  | line0 | line1 | line2 | line3
  deriving DecidableEq, Repr

/-- A frame of the host other than READ, at its rise of select: how many changes of the port's status its fall of select lies
before, and the bits on data in, one for each clock, first bit first. -/
structure FrameIn where
  before : Nat
  bits   : List Bool
  deriving DecidableEq, Repr

/-- A READ frame at its rise of select: how many changes its fall of select lies before, and the clocks given after the eight
of its kind byte. -/
structure ReadIn where
  before : Nat
  clocks : Nat
  deriving DecidableEq, Repr

/-- The line time units since the line's last timed event, and the time since the fall of the start bit of a character under
way at the receiver, if one is. -/
structure LineTime where
  elapsed : Nat
  start   : Option Nat
  deriving DecidableEq, Repr

/-- A fall of main supply good: whether the backup cell is at or above the retention level, and whether the engine has by then
taken the request of the requester granted (R27, R29), and still holds it. -/
structure SupplyFall where
  cellHolds : Bool
  taken     : Bool
  deriving DecidableEq, Repr

/-- A command of the part. A request the engine takes from the port, a message it takes from a line
and a pass grant have no operand: what they act on stands in the request buffer, in the line's inbound
queue or at the head of the index (R31). -/
inductive Instr where
  -- host requests on records (chapter 1)
  | enrolKit | lookupKit | suspendKit | resumeKit | setKitKey | movePlan | retireKit
  -- host requests on plans (chapter 3)
  | definePlan | amendPlan | readPlan | releasePlan
  -- host requests on money (chapter 4)
  | pay | confirm | reverse
  -- host requests on agents (chapter 5)
  | openAgent | amendAgent | readAgent | barAgent | unbarAgent | closeAgent | clearWatermark
  -- host requests on time and notices (chapter 6)
  | takeNotices | nextDue | tableSummary
  -- host requests on the calendar (chapter 8)
  | readTime | setTime | alignMinute | setRegulation
  -- host requests on lines (chapter 9) and on the attention output (chapter 10)
  | setLine | readLine | setAttentionMask | readAttention
  -- an accepted frame that is no request (R177)
  | unknownRequestKind
  -- messages taken from a line (chapters 4 and 7)
  | checkIn | topUp | status
  -- pass grants (chapter 6)
  | expiryPass | settlementPass
  /-- A frame of the host other than READ ends. -/
  | requestFrame (frame : FrameIn)
  /-- A READ frame ends. -/
  | readFrame (frame : ReadIn)
  -- the calendar's own events and the arrival of the engine's commands at it (chapter 8)
  | timebaseStep | regulationHoldEnd | timeLoad | alignCommand | regulationWrite
  /-- A settings command arrives at the line, `elapsed` line time units after the line's last timed event. -/
  | settingsCommand (line : LineNo) (elapsed : Nat)
  /-- A read command arrives at the line. -/
  | readCommand (line : LineNo) (elapsed : Nat)
  /-- The new mask arrives at the attention output. -/
  | maskWrite
  /-- The engine's reply or mark arrives at the line. -/
  | lineDelivery (line : LineNo)
  /-- The receiver has taken a character up to its first stop bit: data bits, parity bit (not looked at
  when parity is NONE) and first stop bit. -/
  | receiveCharacter (line : LineNo) (elapsed : Nat) (data : Byte) (parityBit stopBit : Bool)
  /-- The silence limit of a message in assembly passes. -/
  | gapTimeout (line : LineNo) (time : LineTime)
  /-- The transmitter begins a reply. -/
  | replyBegin (line : LineNo) (time : LineTime)
  /-- The last stop bit of the reply has been sent. -/
  | replyEnd (line : LineNo) (elapsed : Nat)
  /-- Main supply good rises; fail warning and the cell (below the backup-low threshold) as they then stand. -/
  | mainSupplyGoodRise (failWarning cellLow : Bool)
  | startComplete
  | failWarningRise
  /-- Main supply good falls. -/
  | mainSupplyGoodFall (fall : SupplyFall)
  | backupBelowRetention
  /-- The cell crosses the backup-low threshold: `low` when it is now below. -/
  | backupLowChange (low : Bool)
  | resetAssert
  | resetRestart
  deriving DecidableEq, Repr

end Sys2Proof
end

