-- ==== Sys2Proof/Decode.lean ====
section
/-! DEFINITION. The opcode table gives no row any bits, so no word spells a command. -/

namespace Sys2Proof

/-- The command that a word spells by the table's bits: no row of spec/opcode_table.json gives bits, so
there is none. -/
def decodeTableWord (_nbits _w : Nat) : Option Instr := none

end Sys2Proof
end

