-- ==== Sys2Proof/Config.lean ====
section
/-! DEFINITION. The sizes and bounds the manual fixes for the part, and the one free value of the model. -/

namespace Sys2Proof.Config

/-- Slots of the account table (R1). -/
def slots : Nat := 4096

/-- Entries of the payment pool (R65). -/
def poolEntries : Nat := 2048

/-- Free entries below which POOL LOW holds (R65). -/
def poolLowBelow : Nat := 64

/-- Slots of the plan table (R39). -/
def planSlots : Nat := 32

/-- Slots of the agent table (R88). -/
def agentSlots : Nat := 64

/-- Pending entries one record may hold (R64). -/
def pendingPerRecord : Nat := 4

/-- Messages of an inbound queue and replies of an outbound queue (R168, R169). -/
def lineQueue : Nat := 4

/-- The bad check count at which CHECK FAULT is raised, and at which the count saturates (R128). -/
def badCheckLimit : Nat := 8

/-- Steps of residue in one unit, and minutes in one day (section 3.2 of the introduction, R51). -/
def dayMinutes : Nat := 1440

/-- Largest confirmed total of a rental plan and largest settled or reversed total (R57, R91): 2^48 - 1. -/
def totalMax : Nat := 281474976710655

/-- Largest residue (R56). -/
def residueMax : Nat := 14399998560

/-- Largest 32-bit value: the largest grant number, reference and lifetime energy (section 3.5, R5). -/
def max32 : Nat := 4294967295

/-- Largest reported run minutes (R61). -/
def runMinutesMax : Nat := 65535

/-- Largest day count of the kit's display form (R59). -/
def kitDaysMax : Nat := 99

/-- Largest day count of the agent's display form (R60). -/
def agentDaysMax : Nat := 255

/-- Seconds a SET calendar may be moved without the STEP field (R153). -/
def stepSeconds : Nat := 900

/-- Timebase steps in one second (R147). -/
def secondSteps : Nat := 1024

/-- Largest magnitude of the regulation value (R145). -/
def regulationMax : Nat := 63

/-- Most bytes of a request frame (R177). -/
def frameBytes : Nat := 64

/-- Line time units in one bit at 1200 bit/s, one unit being 1/76800 s (log entry 8). -/
def unitsPerBitAt1200 : Nat := 64

/-- FREE VALUE: how many of the settings commands in flight to a line arrive before the part loses
power, when main supply falls with no fail warning before it and the engine is idle. The manual does
not say (log entry 14). It is applied to the counter `freeIndex` of State, once for each line. -/
opaque landedCommands : Nat → Nat

end Sys2Proof.Config
end

