-- ==== Sys2Proof/Machine/State.lean ====
section
/-! DEFINITION. The state of the part as plain data: every table, record, queue, flag and setting the manual
gives it, with the value each has at the end of a cold start. -/

namespace Sys2Proof.Machine

/-! ## Tables -/

/-- A numbered table: entries in strictly rising order of their number. A slot that is free (account table),
FREE (plans) or CLOSED (agents) has no entry: the manual gives such a slot no fields (R1, R39, R88). -/
abbrev Table (α : Type) := List (Nat × α)

/-! ## Account records (chapter 1) -/

/-- The six states of a record (R4, section 1.4). -/
inductive RecordState where
  | enrolled | active | lapsed | defaulted | suspended | owned
  deriving DecidableEq, Repr

/-- The kinds a stored offer can have (R124). -/
inductive GrantKind where
  | run | lock | owned
  deriving DecidableEq, Repr

/-- The kinds of due entry (R104). -/
inductive DueKind where
  | remind | lapse | default
  deriving DecidableEq, Repr

/-- The nine notices (R113). -/
inductive Notice where
  | remind | lapsed | defaulted | timedSettlement | overhang | owned | checkFault | grantMismatch | tamper
  deriving DecidableEq, Repr

/-- The set of notice flags of a record (R5). -/
structure NoticeFlags where
  remind          : Bool
  lapsed          : Bool
  defaulted       : Bool
  timedSettlement : Bool
  overhang        : Bool
  owned           : Bool
  checkFault      : Bool
  grantMismatch   : Bool
  tamper          : Bool
  deriving DecidableEq, Repr

/-- No notice flag is set. -/
def NoticeFlags.clear : NoticeFlags := ⟨false, false, false, false, false, false, false, false, false⟩

/-- The flags a kit reports (R5). -/
structure KitFlags where
  tamper     : Bool
  lowBattery : Bool
  deriving DecidableEq, Repr

/-- One provisional top-up held against a record (R63). -/
structure Entry where
  reference : Nat
  agent     : Nat
  amount    : Nat
  minutes   : Nat
  remainder : Nat
  taken     : Nat
  deadline  : Nat
  deriving DecidableEq, Repr

/-- The latest grant issued towards a kit (R5, R124). -/
structure Offer where
  number     : Nat
  kind       : Option GrantKind
  runThrough : Option Nat
  deriving DecidableEq, Repr

/-- An account record (R4, R5). -/
structure Record where
  kit         : Nat
  state       : RecordState
  reason      : Option Nat
  plan        : Nat
  key         : Word32
  paid        : Option Nat
  residue     : Nat
  confirmed   : Nat
  pending     : List Entry
  offer       : Offer
  acked       : Nat
  reminded    : Bool
  lastCheckIn : Option (Nat × LineNo)
  energy      : Nat
  kitFlags    : KitFlags
  badChecks   : Nat
  notices     : NoticeFlags
  due         : Option (DueKind × Nat)
  deriving DecidableEq, Repr

/-! ## Plans and agents (chapters 3 and 5) -/

/-- What becomes of a payment beyond the prepay cap (R39). -/
inductive CapMode where
  | refuse | clamp
  deriving DecidableEq, Repr

/-- What becomes of the part-minute of a conversion (R39, R52). -/
inductive Rounding where
  | carry | nearestEven | halfUp
  deriving DecidableEq, Repr

/-- A DEFINED plan: the fields of R39 in the order of DEFINE PLAN, and the reference count (R40). -/
structure Plan where
  rate     : Nat
  price    : Nat
  minimum  : Nat
  capDays  : Nat
  capMode  : CapMode
  rounding : Rounding
  lease    : Nat
  renew    : Nat
  lead     : Nat
  window   : Nat
  clawBack : Bool
  refCount : Nat
  deriving DecidableEq, Repr

/-- What is done with an entry that reaches its deadline unsettled (R88, R93). -/
inductive Policy where
  | reverse | confirm
  deriving DecidableEq, Repr

/-- An OPEN or BARRED agent (R88). -/
structure Agent where
  barred      : Bool
  key         : Word32
  limit       : Nat
  outstanding : Nat
  settled     : Nat
  reversed    : Nat
  policy      : Policy
  window      : Nat
  watermark   : Bool
  deriving DecidableEq, Repr

/-! ## The engine's collections (chapters 4 and 6) -/

/-- One entry of the expiry index (R107). -/
structure DueItem where
  instant : Nat
  kit     : Nat
  slot    : Nat
  kind    : DueKind
  deriving DecidableEq, Repr

/-- One entry of the settlement index (R66). -/
structure SettleItem where
  deadline  : Nat
  kit       : Nat
  reference : Nat
  deriving DecidableEq, Repr

/-- Everything the record engine owns (section 1.2 of the introduction). -/
structure Engine where
  accounts   : Table Record
  directory  : Table Nat
  plans      : Table Plan
  agents     : Table Agent
  poolFree   : Nat
  expiry     : List DueItem
  settlement : List SettleItem
  notices    : List Nat
  deriving DecidableEq, Repr

/-- The engine's tables at a cold start (R25, R49, R87, R103, R122). -/
def Engine.cold : Engine :=
  { accounts := [], directory := [], plans := [], agents := [], poolFree := Config.poolEntries,
    expiry := [], settlement := [], notices := [] }

/-! ## The calendar (chapter 8) -/

/-- Whether district time has been given since the last cold start (R145). -/
inductive CalendarState where
  | unset | known
  deriving DecidableEq, Repr

/-- A date and time to the second, as SET TIME carries it and the calendar holds it (R145, R153). -/
structure DateTime where
  year   : Nat
  month  : Nat
  day    : Nat
  hour   : Nat
  minute : Nat
  second : Nat
  deriving DecidableEq, Repr

/-- What the calendar holds (R145). `minuteEvents` counts the minute events raised since the last cold start: the
model's own record of a signal (log entry 17). -/
structure Calendar where
  state          : CalendarState
  time           : DateTime
  sub            : Nat
  districtMinute : Nat
  regulation     : Int
  hold           : Nat
  minuteEvents   : Nat
  deriving DecidableEq, Repr

/-- The calendar after a cold start (R159). -/
def Calendar.cold : Calendar :=
  { state := .unset, time := ⟨2000, 1, 1, 0, 0, 0⟩, sub := 0, districtMinute := 0, regulation := 0, hold := 0,
    minuteEvents := 0 }

/-! ## Lines (chapter 9) -/

inductive Role where
  | off | kit | agent
  deriving DecidableEq, Repr

inductive Rate where
  | r1200 | r2400 | r4800 | r9600 | r19200
  deriving DecidableEq, Repr

inductive Parity where
  | none | even | odd
  deriving DecidableEq, Repr

inductive StopBits where
  | one | two
  deriving DecidableEq, Repr

inductive Duplex where
  | half | full
  deriving DecidableEq, Repr

/-- The five settings of a line (R160). -/
structure Settings where
  role     : Role
  rate     : Rate
  parity   : Parity
  stopBits : StopBits
  duplex   : Duplex
  deriving DecidableEq, Repr

/-- The settings after a cold start (R160). -/
def Settings.cold : Settings := ⟨.off, .r9600, .none, .one, .half⟩

/-- The assembler's state with what it has counted or taken (R165). -/
inductive Assembler where
  | hunt
  | length
  /-- The length, and the bytes taken so far: kind, payload and keyed check. -/
  | body (length : Nat) (taken : List Byte)
  /-- The bytes still to discard. -/
  | skip (left : Nat)
  deriving DecidableEq, Repr

/-- A CHECK-IN as received; `flags` is the whole flags byte, reserved bits included, since the check covers it (R190). -/
structure CheckInMsg where
  kit    : Nat
  held   : Nat
  energy : Nat
  flags  : Byte
  check  : Word32
  deriving DecidableEq, Repr

/-- A TOP-UP as received (R190). -/
structure TopUpMsg where
  agent     : Nat
  kit       : Nat
  amount    : Nat
  reference : Nat
  check     : Word32
  deriving DecidableEq, Repr

/-- A STATUS as received (R190). -/
structure StatusMsg where
  agent : Nat
  kit   : Nat
  check : Word32
  deriving DecidableEq, Repr

/-- A message of an inbound queue: its kind, its fields and its keyed check as received (R168). -/
inductive Message where
  | checkIn (m : CheckInMsg)
  | topUp (m : TopUpMsg)
  | status (m : StatusMsg)
  deriving DecidableEq, Repr

/-- The result codes of section 2.5, in the order of their codes (R190). -/
inductive Result where
  | done | unknownKit | unknownPlan | unknownAgent | unknownReference | duplicateKit | duplicateReference
  | tableFull | poolFull | pendingFull | belowMinimum | capExceeded | floatExceeded | agentBarred
  | wrongState | planInUse | entriesPending | timeUnset | stepTooLarge | badField | stopping
  deriving DecidableEq, Repr

/-- The kinds of a GRANT REPLY: the offered kinds and HOLD (R124, R139). -/
inductive ReplyKind where
  | run | lock | owned | hold
  deriving DecidableEq, Repr

/-- Display days as reported, with the MORE flag (R59, R60). -/
structure Days where
  days : Nat
  more : Bool
  deriving DecidableEq, Repr

/-- A GRANT REPLY (R139). -/
structure GrantReply where
  kit        : Nat
  number     : Nat
  kind       : ReplyKind
  runMinutes : Nat
  days       : Days
  deriving DecidableEq, Repr

/-- A TOP-UP ANSWER (R74). -/
structure TopUpAnswer where
  reference : Nat
  result    : Result
  minutes   : Nat
  accepted  : Nat
  surplus   : Nat
  days      : Days
  deriving DecidableEq, Repr

/-- A STATUS ANSWER (R144). -/
structure StatusAnswer where
  result   : Result
  kit      : Nat
  state    : Option RecordState
  days     : Days
  pending  : Nat
  progress : Nat
  deriving DecidableEq, Repr

/-- What a reply says (R190). -/
inductive ReplyBody where
  | grant (g : GrantReply)
  | topUp (a : TopUpAnswer)
  | status (a : StatusAnswer)
  deriving DecidableEq, Repr

/-- A reply of an outbound queue with the keyed check the engine computed for it (R139, R74, R144). -/
structure Reply where
  body  : ReplyBody
  check : Word32
  deriving DecidableEq, Repr

/-- The last unknown sender: its sort and its value (R172). -/
inductive Sender where
  | kit (id : Nat)
  | agent (number : Nat)
  deriving DecidableEq, Repr

/-- The transmitter: idle, or sending a reply for so many line time units (R169; log entry 8). -/
inductive Transmitter where
  | idle
  | sending (reply : Reply) (sent : Nat)
  deriving DecidableEq, Repr

/-- The sticky flags of a line, in the order of R171. -/
structure LineFlags where
  framing        : Bool
  parity         : Bool
  messageOverrun : Bool
  gap            : Bool
  badLength      : Bool
  unknownKind    : Bool
  wrongRole      : Bool
  unknownSender  : Bool
  deriving DecidableEq, Repr

/-- No line flag is set. -/
def LineFlags.clear : LineFlags := ⟨false, false, false, false, false, false, false, false⟩

/-- The take marker (R162). -/
inductive TakeMarker where
  | none | current | stale
  deriving DecidableEq, Repr

/-- What the engine delivers to a line for a taken message (R31, R162). -/
inductive Delivery where
  | reply (r : Reply)
  | mark (sender : Sender)
  deriving DecidableEq, Repr

/-- What travels from the engine to a line, in the order sent (R161, R162, R173). -/
inductive LineItem where
  | settings (s : Settings)
  | read
  | delivery (d : Delivery)
  deriving DecidableEq, Repr

/-- A line unit (section 9 of the manual). Of its three times, `quiet` is the quiet time, which runs in HUNT and stands
outside it (R170; log entry 9), `silence` runs from the middle of the stop bit at which the latest good character was
taken (R163, R167; log entry 35), and `looking` from the moment the receiver last began to look for a start bit (R163; log
entries 8 and 9). -/
structure Line where
  settings    : Settings
  assembler   : Assembler
  inbound     : List Message
  outbound    : List Reply
  transmitter : Transmitter
  flags       : LineFlags
  lastUnknown : Option Sender
  take        : TakeMarker
  quiet       : Nat
  silence     : Nat
  looking     : Nat
  inFlight    : List LineItem
  deriving DecidableEq, Repr

/-- A line that starts with the given settings (R174). -/
def Line.started (settings : Settings) : Line :=
  { settings := settings, assembler := .hunt, inbound := [], outbound := [], transmitter := .idle,
    flags := .clear, lastUnknown := none, take := .none, quiet := 0, silence := 0, looking := 0, inFlight := [] }

/-- The four line units. -/
structure Lines where
  line0 : Line
  line1 : Line
  line2 : Line
  line3 : Line
  deriving DecidableEq, Repr

/-- The lines after a cold start (R174). -/
def Lines.cold : Lines :=
  ⟨.started .cold, .started .cold, .started .cold, .started .cold⟩

/-! ## Management port (chapter 10) -/

/-- A request frame as the port holds it: its kind and the bytes of its fields; length and check were judged (R177). -/
structure Frame where
  kind   : Byte
  fields : List Byte
  deriving DecidableEq, Repr

/-- One field of a response: its width in bytes and its value, sent most significant byte first (R192). -/
structure Field where
  width : Nat
  value : Nat
  deriving DecidableEq, Repr

/-- A response; its length and frame check are computed when it is shifted out (R179, R192). -/
structure Response where
  kind   : Byte
  result : Result
  fields : List Field
  deriving DecidableEq, Repr

/-- The port state (R176). -/
inductive PortState where
  | idle | busy | ready
  deriving DecidableEq, Repr

/-- The five supply states (R185). -/
inductive SupplyState where
  | unpowered | retaining | starting | running | stopping
  deriving DecidableEq, Repr

/-- What a status byte carries (R176). -/
structure Status where
  supply  : SupplyState
  port    : PortState
  overrun : Bool
  torn    : Bool
  deriving DecidableEq, Repr

/-- The management port. `earlier` holds what a status byte would have carried before each change of it that no frame has
ended since, the latest change first: what a fall of select back then has latched (R176, R180; log entry 6). `dataOut` is
the model's record of the bits shifted out in the latest frame (log entry 18). -/
structure Port where
  state    : PortState
  request  : Option Frame
  response : Option Response
  overrun  : Bool
  torn     : Bool
  earlier  : List Status
  dataOut  : List Bool
  deriving DecidableEq, Repr

/-- The port at the beginning of a start (R181). -/
def Port.started : Port :=
  { state := .idle, request := none, response := none, overrun := false, torn := false, earlier := [], dataOut := [] }

/-- One Boolean for each attention cause, in the order of R182: the mask, or the causes holding. -/
structure Causes where
  responseReady  : Bool
  noticesWaiting : Bool
  lineFault      : Bool
  agentWatermark : Bool
  poolLow        : Bool
  timeUnset      : Bool
  backupLow      : Bool
  deriving DecidableEq, Repr

/-- Every enable set, as after every start (R182). -/
def Causes.all : Causes := ⟨true, true, true, true, true, true, true⟩

/-! ## Engine, arbiter and supply -/

/-- The requesters, in the circular order of R29. -/
inductive Requester where
  | port
  | line (n : LineNo)
  | expiryPass
  | settlementPass
  deriving DecidableEq, Repr

/-- What the engine holds from one step to a later one: a request whose command, report or delivery is still on its
way (R27, R151, R162, R173, R183; log entry 5). -/
inductive Hold where
  /-- SET TIME: the calendar as read at the take, and the time to load. -/
  | timeLoad (taken : Calendar) (time : DateTime)
  /-- ALIGN MINUTE. -/
  | align
  /-- SET REGULATION. -/
  | regulation (value : Int)
  /-- READ LINE. -/
  | lineReport (line : LineNo)
  /-- SET ATTENTION MASK. -/
  | maskWrite (mask : Causes)
  /-- A message taken from the line, whose reply or mark is on its way. -/
  | message (line : LineNo)
  deriving DecidableEq, Repr

/-- The supply monitor (chapter 11). -/
structure Supply where
  state        : SupplyState
  mark         : Bool
  backupLow    : Bool
  resetWaiting : Bool
  deriving DecidableEq, Repr

/-- The whole part. `freeIndex` and `pending` are the model's own: the counter free values are drawn with (log entry
14), and the commands that wait, first in, first out (log entry 1). -/
structure State where
  engine    : Engine
  hold      : Option Hold
  pointer   : Requester
  calendar  : Calendar
  lines     : Lines
  port      : Port
  mask      : Causes
  supply    : Supply
  freeIndex : Nat
  pending   : List Instr
  deriving DecidableEq, Repr

/-- The part at the end of a cold start, RUNNING (R187; log entry 3). -/
def State.reset : State :=
  { engine := .cold, hold := none, pointer := .port, calendar := .cold, lines := .cold
    port := { Port.started with earlier := [⟨.starting, .idle, false, false⟩] }
    mask := .all, supply := ⟨.running, true, false, false⟩, freeIndex := 0, pending := [] }

/-! ## Stops -/

/-- Why a step can stop with a fault. -/
inductive Fault where
  /-- The directory or an index names a record, or a record names a plan, that is not there. Raised by every request,
  message and pass that brings a record current. No state a run from reset reaches has it (R2, R40, R107): safe. -/
  | brokenTables
  deriving DecidableEq, Repr

/-- Why a step can be refused. -/
inductive Refusal where
  /-- A command that has no meaning yet: raised by an arm of `exec` only; safe. No arm raises it now. -/
  | notModelled (mnemonic : String)
  deriving DecidableEq, Repr

end Sys2Proof.Machine
end

