-- ==== Sys2Proof/Machine/Arithmetic.lean ====
section
/-! DEFINITION. The credit arithmetic unit (section 3.3) and the values derived from a record when they are reported
(R6, R58 to R61). -/

namespace Sys2Proof.Machine

/-- What the unit returns for an accepted conversion (R50). -/
structure Conversion where
  minutes   : Nat
  accepted  : Nat
  surplus   : Nat
  remainder : Nat
  deriving DecidableEq, Repr

/-- The converted minutes of a quotient and remainder under a rounding mode (R52). -/
def roundMinutes (mode : Rounding) (rate q r : Nat) : Nat :=
  match mode with
  | .carry => q
  | .nearestEven =>
    if 2 * r < rate then q
    else if rate < 2 * r then q + 1
    else if q % 2 = 0 then q else q + 1
  | .halfUp => if 2 * r < rate then q else q + 1

/-- The remainder carried on: kept under CARRY, 0 otherwise (R52). -/
def keptRemainder (mode : Rounding) (r : Nat) : Nat :=
  match mode with
  | .carry => r
  | .nearestEven => 0
  | .halfUp => 0

/-- The residue that enters the numerator of a PAY: the record's under CARRY, none otherwise (R51). -/
def residueEntering (mode : Rounding) (residue : Nat) : Nat := keptRemainder mode residue

/-- The limit of the prepay cap at `t` (R53). -/
def Plan.capLimit (p : Plan) (t : Nat) : Nat := t + p.capDays * Config.dayMinutes

/-- The conversion that the clamp accepts for `m` minutes, `m` above 0 (R54). -/
def clampConversion (p : Plan) (amount residueIn m : Nat) : Conversion :=
  let accepted := (m * p.rate - residueIn + (Config.dayMinutes - 1)) / Config.dayMinutes
  { minutes := m, accepted := accepted, surplus := amount - accepted,
    remainder := keptRemainder p.rounding (accepted * Config.dayMinutes + residueIn - m * p.rate) }

/-- The unit (R51 to R54): the amount, the residue that enters the numerator, the base and the request instant, under
the plan; `none` is CAP EXCEEDED. -/
def convert (p : Plan) (amount residueIn base t : Nat) : Option Conversion :=
  let numerator := amount * Config.dayMinutes + residueIn
  let m := roundMinutes p.rounding p.rate (numerator / p.rate) (numerator % p.rate)
  if base + m ≤ p.capLimit t then
    some { minutes := m, accepted := amount, surplus := 0, remainder := keptRemainder p.rounding (numerator % p.rate) }
  else
    match p.capMode with
    | .refuse => none
    | .clamp => if p.capLimit t ≤ base then none else some (clampConversion p amount residueIn (p.capLimit t - base))

/-- The instant from which a payment at `t` runs (R9 step 1). -/
def Record.base (r : Record) (t : Nat) : Nat :=
  match r.paid with
  | some p => if t < p then p else t
  | none => t

/-- The overhang of a record (R6). -/
def Record.overhang (r : Record) : Nat :=
  match r.offer.kind, r.offer.runThrough, r.paid with
  | some .run, some through, some paid => through - paid
  | _, _, _ => 0

/-- Ownership pending (R6). -/
def Record.ownershipPending (r : Record) (p : Plan) : Bool :=
  r.state != .owned && 0 < p.price && r.confirmed < p.price && p.price ≤ r.confirmed + (r.pending.map Entry.amount).sum

/-- Ownership progress, a whole percentage (R58). -/
def Record.progress (r : Record) (p : Plan) : Nat := if p.price = 0 then 0 else r.confirmed * 100 / p.price

/-- The whole days of credit remaining at `t` (R59). -/
def Record.wholeDays (r : Record) (t : Nat) : Nat :=
  match r.paid with
  | some p => if t < p then (p - t) / Config.dayMinutes else 0
  | none => 0

/-- A day count limited to a largest value, MORE set when it was above (R59, R60). -/
def limitDays (largest days : Nat) : Days := if days ≤ largest then ⟨days, false⟩ else ⟨largest, true⟩

/-- Display days in the kit's form (R59). -/
def Record.kitDays (r : Record) (t : Nat) : Days := limitDays Config.kitDaysMax (r.wholeDays t)

/-- Display days in the agent's form (R60). -/
def Record.agentDays (r : Record) (t : Nat) : Days := limitDays Config.agentDaysMax (r.wholeDays t)

/-- Run minutes as reported: not below 0 and limited to 65,535 (R61). -/
def runMinutes (through t : Nat) : Nat := min (through - t) Config.runMinutesMax

end Sys2Proof.Machine
end

