-- ==== Sys2Proof/Machine/Ops.lean ====
section
/-! DEFINITION. The named operations over numbered tables, the two indexes, the notice list and the four lines, and
the byte orders of the two wires. -/

namespace Sys2Proof.Machine

/-! ## Numbered tables -/

/-- The entry of number `k`, if the table has one. -/
def Table.get {α : Type} (k : Nat) : Table α → Option α
  | [] => none
  | (k', v) :: rest => if k' = k then some v else Table.get k rest

/-- Writes the entry of number `k`, keeping the numbers in rising order. -/
def Table.put {α : Type} (k : Nat) (v : α) : Table α → Table α
  | [] => [(k, v)]
  | (k', v') :: rest =>
    if k' = k then (k, v) :: rest
    else if k < k' then (k, v) :: (k', v') :: rest
    else (k', v') :: Table.put k v rest

/-- Removes the entry of number `k`. -/
def Table.erase {α : Type} (k : Nat) (t : Table α) : Table α := t.filter (fun e => !(e.1 == k))

/-- The canonical form: the numbers rise strictly, so a number has at most one entry (R2). -/
abbrev Table.wf {α : Type} (t : Table α) : Prop := t.Pairwise (fun a b => a.1 < b.1)

/-- The lowest number from `n` on that a table in canonical form does not use (R14). -/
def Table.lowestFree {α : Type} (n : Nat) : Table α → Nat
  | [] => n
  | (k, _) :: rest => if k = n then Table.lowestFree (n + 1) rest else Table.lowestFree n rest

/-! ## The search of the kit directory (R3) -/

/-- Bisection: compares the middle entry of `[low, high)` and keeps the half that can hold the kit id; gives the slot, if
found, and the number of comparisons made. `fuel` bounds the comparisons. -/
def bisect (dir : Table Nat) (kit : Nat) : Nat → Nat → Nat → Option Nat × Nat
  | 0, _, _ => (none, 0)
  | fuel + 1, low, high =>
    if high ≤ low then (none, 0)
    else
      let middle := (low + high) / 2
      match dir[middle]? with
      | none => (none, 0)
      | some (k, slot) =>
        if k = kit then (some slot, 1)
        else
          let (found, n) := if k < kit then bisect dir kit fuel (middle + 1) high else bisect dir kit fuel low middle
          (found, n + 1)

/-! ## The expiry index (R107) and the settlement index (R66) -/

/-- `a` stands before `b`: by instant, then by kit id (R107). -/
def DueItem.before (a b : DueItem) : Bool := a.instant < b.instant || (a.instant == b.instant && a.kit < b.kit)

/-- Inserts a due entry at the place the order of R107 gives. -/
def dueInsert (d : DueItem) : List DueItem → List DueItem
  | [] => [d]
  | e :: rest => if d.before e then d :: e :: rest else e :: dueInsert d rest

/-- Removes the due entry of a kit. -/
def dueRemove (kit : Nat) (index : List DueItem) : List DueItem := index.filter (fun d => !(d.kit == kit))

/-- `a` stands before `b` by deadline, then by kit id; a later arrival does not stand before an earlier one (R66). -/
def SettleItem.before (a b : SettleItem) : Bool :=
  a.deadline < b.deadline || (a.deadline == b.deadline && a.kit < b.kit)

/-- Inserts a pending entry at the place the order of R66 gives: after every entry of equal deadline and kit. -/
def settleInsert (d : SettleItem) : List SettleItem → List SettleItem
  | [] => [d]
  | e :: rest => if d.before e then d :: e :: rest else e :: settleInsert d rest

/-- Removes the entry of a kit and reference. -/
def settleRemove (kit reference : Nat) (index : List SettleItem) : List SettleItem :=
  index.filter (fun d => !(d.kit == kit && d.reference == reference))

/-! ## Pending entries of a record (R64) -/

/-- The entry that carries the reference. -/
def findEntry (reference : Nat) (pending : List Entry) : Option Entry :=
  pending.find? (fun e => e.reference == reference)

/-- Removes the entry that carries the reference; the entries behind it move forward with their order kept. -/
def removeEntry (reference : Nat) (pending : List Entry) : List Entry :=
  pending.filter (fun e => !(e.reference == reference))

/-- Inserts an entry behind those with the same or an earlier deadline. -/
def insertByDeadline (e : Entry) : List Entry → List Entry
  | [] => [e]
  | f :: rest => if e.deadline < f.deadline then e :: f :: rest else f :: insertByDeadline e rest

/-- The entries whose deadline is at or before `t`, by deadline and then by arrival (R35). -/
def dueEntries (t : Nat) (pending : List Entry) : List Entry :=
  (pending.filter (fun e => e.deadline ≤ t)).foldl (fun sorted e => insertByDeadline e sorted) []

/-- The sum of the amounts of some entries. -/
def amountSum (pending : List Entry) : Nat := (pending.map Entry.amount).sum

/-! ## The four lines -/

def Lines.get (ls : Lines) : LineNo → Line
  | .line0 => ls.line0
  | .line1 => ls.line1
  | .line2 => ls.line2
  | .line3 => ls.line3

def Lines.put (ls : Lines) (n : LineNo) (l : Line) : Lines :=
  match n with
  | .line0 => { ls with line0 := l }
  | .line1 => { ls with line1 := l }
  | .line2 => { ls with line2 := l }
  | .line3 => { ls with line3 := l }

/-- The four lines, each as a function of its number gives it. -/
def Lines.of (f : LineNo → Line) : Lines := ⟨f .line0, f .line1, f .line2, f .line3⟩

/-- Every line changed in the same way. -/
def Lines.map (f : Line → Line) (ls : Lines) : Lines :=
  ⟨f ls.line0, f ls.line1, f ls.line2, f ls.line3⟩

/-- The number of a line, 0 to 3. -/
def lineIndex : LineNo → Nat
  | .line0 => 0
  | .line1 => 1
  | .line2 => 2
  | .line3 => 3

/-- The line of a number, if it is 0 to 3. -/
def lineOfIndex : Nat → Option LineNo
  | 0 => some .line0
  | 1 => some .line1
  | 2 => some .line2
  | 3 => some .line3
  | _ => none

/-! ## Bytes: most significant first on the port (R192), least significant first on the lines (R190) -/

/-- A number in `width` bytes, most significant byte first. -/
def bytesBE : Nat → Nat → List Byte
  | 0, _ => []
  | width + 1, v => BitVec.ofNat 8 (v / 256 ^ width) :: bytesBE width v

/-- A number in `width` bytes, least significant byte first. -/
def bytesLE : Nat → Nat → List Byte
  | 0, _ => []
  | width + 1, v => BitVec.ofNat 8 v :: bytesLE width (v / 256)

/-- The number some bytes spell, most significant byte first. -/
def ofBE (bytes : List Byte) : Nat := bytes.foldl (fun n b => n * 256 + b.toNat) 0

/-- The number some bytes spell, least significant byte first. -/
def ofLE : List Byte → Nat
  | [] => 0
  | b :: rest => b.toNat + 256 * ofLE rest

/-- The bits of a byte, most significant first (R175). -/
def byteBits (b : Byte) : List Bool := [7, 6, 5, 4, 3, 2, 1, 0].map b.getLsbD

/-- The byte eight bits spell, most significant first. -/
def byteOfBits (bits : List Bool) : Byte := BitVec.ofNat 8 (bits.foldl (fun n b => 2 * n + b.toNat) 0)

/-- The whole bytes of a run of bits; bits left over after the last whole byte are dropped. -/
def packBytes : List Bool → List Byte
  | a :: b :: c :: d :: e :: f :: g :: h :: rest => byteOfBits [a, b, c, d, e, f, g, h] :: packBytes rest
  | _ => []

/-- Every byte of a list as bits, most significant bit first. -/
def spellBits (bytes : List Byte) : List Bool := bytes.flatMap byteBits

end Sys2Proof.Machine
end

