-- ==== Sys2Proof/Machine/Checks.lean ====
section
/-! DEFINITION. The two cyclic checks: the 32-bit keyed check of line messages (R191) and the 16-bit frame check of
port frames (R193). -/

namespace Sys2Proof.Machine

/-- One bit of the keyed check (R191): combined with place 0, the register shifted towards place 0. -/
def keyedBit (reg : Word32) (bit : Bool) : Word32 :=
  if bit ^^ reg.getLsbD 0 then (reg >>> 1) ^^^ 0xEDB88320#32 else reg >>> 1

/-- One byte of the keyed check, least significant bit first. -/
def keyedByte (reg : Word32) (b : Byte) : Word32 :=
  [0, 1, 2, 3, 4, 5, 6, 7].foldl (fun r i => keyedBit r (b.getLsbD i)) reg

/-- The keyed check over length, kind and payload; the register is preset to the key (R191). -/
def keyedCheck (key : Word32) (bytes : List Byte) : Word32 := bytes.foldl keyedByte key

/-- One bit of the frame check (R193): combined with the top place, the register shifted towards the top. -/
def frameBit (reg : BitVec 16) (bit : Bool) : BitVec 16 :=
  if bit ^^ reg.getLsbD 15 then (reg <<< 1) ^^^ 0x1021#16 else reg <<< 1

/-- One byte of the frame check, most significant bit first. -/
def frameByte (reg : BitVec 16) (b : Byte) : BitVec 16 :=
  [7, 6, 5, 4, 3, 2, 1, 0].foldl (fun r i => frameBit r (b.getLsbD i)) reg

/-- The frame check, register preset to FFFFh (R193). -/
def frameCheck (bytes : List Byte) : BitVec 16 := bytes.foldl frameByte 0xFFFF#16

end Sys2Proof.Machine
end

