-- ==== Sys2Proof/Machine/Operands.lean ====
section
/-! DEFINITION. The operand forms: the codes of the type table, the fields of each host request as a frame carries
them, and the fields of each line message (R190, R192). -/

namespace Sys2Proof.Machine

/-! ## Codes of the type table (R192). A code that is not in the table is `none`. -/

def flagOf : Nat → Option Bool
  | 0 => some false
  | 1 => some true
  | _ => none

def capModeOf : Nat → Option CapMode
  | 1 => some .refuse
  | 2 => some .clamp
  | _ => none

def roundingOf : Nat → Option Rounding
  | 1 => some .carry
  | 2 => some .nearestEven
  | 3 => some .halfUp
  | _ => none

def policyOf : Nat → Option Policy
  | 1 => some .reverse
  | 2 => some .confirm
  | _ => none

def roleOf : Nat → Option Role
  | 0 => some .off
  | 1 => some .kit
  | 2 => some .agent
  | _ => none

def rateOf : Nat → Option Rate
  | 1 => some .r1200
  | 2 => some .r2400
  | 3 => some .r4800
  | 4 => some .r9600
  | 5 => some .r19200
  | _ => none

def parityOf : Nat → Option Parity
  | 0 => some .none
  | 1 => some .even
  | 2 => some .odd
  | _ => none

def stopBitsOf : Nat → Option StopBits
  | 1 => some .one
  | 2 => some .two
  | _ => none

def duplexOf : Nat → Option Duplex
  | 0 => some .half
  | 1 => some .full
  | _ => none

/-- The regulation value a byte carries, two's complement (R192). -/
def regulationOf (b : Nat) : Int := (BitVec.ofNat 8 b).toInt

/-- The seven enables of a mask byte, bits 0 to 6 in the order of R182; `none` when bit 7 is set (R183). -/
def maskOf (b : Nat) : Option Causes :=
  if b.testBit 7 then none
  else some ⟨b.testBit 0, b.testBit 1, b.testBit 2, b.testBit 3, b.testBit 4, b.testBit 5, b.testBit 6⟩

/-! ## Host requests -/

/-- The eleven plan fields as DEFINE PLAN and AMEND PLAN carry them, in that order (R192). -/
structure PlanNums where
  rate     : Nat
  price    : Nat
  minimum  : Nat
  capDays  : Nat
  capMode  : Nat
  rounding : Nat
  lease    : Nat
  renew    : Nat
  lead     : Nat
  window   : Nat
  clawBack : Nat
  deriving DecidableEq, Repr

/-- The four agent fields as OPEN AGENT and AMEND AGENT carry them, in that order (R192). -/
structure AgentNums where
  key    : Nat
  limit  : Nat
  policy : Nat
  window : Nat
  deriving DecidableEq, Repr

/-- A host request with the numbers its frame carries, none of them checked yet (R192). -/
inductive Request where
  | enrolKit (kit plan key base : Nat)
  | lookupKit (kit : Nat)
  | suspendKit (kit reason : Nat)
  | resumeKit (kit : Nat)
  | setKitKey (kit key : Nat)
  | movePlan (kit plan : Nat)
  | retireKit (kit force : Nat)
  | definePlan (plan : Nat) (fields : PlanNums)
  | amendPlan (plan changes : Nat) (fields : PlanNums)
  | readPlan (plan : Nat)
  | releasePlan (plan : Nat)
  | pay (kit amount : Nat)
  | confirm (kit reference : Nat)
  | reverse (kit reference : Nat)
  | openAgent (agent : Nat) (fields : AgentNums)
  | amendAgent (agent changes : Nat) (fields : AgentNums)
  | readAgent (agent : Nat)
  | barAgent (agent : Nat)
  | unbarAgent (agent : Nat)
  | closeAgent (agent : Nat)
  | clearWatermark (agent : Nat)
  | takeNotices (count : Nat)
  | nextDue (startInstant startKit count : Nat)
  | tableSummary
  | readTime
  | setTime (time : DateTime) (step : Nat)
  | alignMinute
  | setRegulation (value : Nat)
  | setLine (line role rate parity stopBits duplex : Nat)
  | readLine (line : Nat)
  | setAttentionMask (mask : Nat)
  | readAttention
  deriving DecidableEq, Repr

/-- The code of a request (R192). -/
def Request.code : Request → Nat
  | .enrolKit _ _ _ _ => 0x01
  | .lookupKit _ => 0x02
  | .suspendKit _ _ => 0x03
  | .resumeKit _ => 0x04
  | .setKitKey _ _ => 0x05
  | .movePlan _ _ => 0x06
  | .retireKit _ _ => 0x07
  | .definePlan _ _ => 0x10
  | .amendPlan _ _ _ => 0x11
  | .readPlan _ => 0x12
  | .releasePlan _ => 0x13
  | .pay _ _ => 0x20
  | .confirm _ _ => 0x21
  | .reverse _ _ => 0x22
  | .openAgent _ _ => 0x30
  | .amendAgent _ _ _ => 0x31
  | .readAgent _ => 0x32
  | .barAgent _ => 0x33
  | .unbarAgent _ => 0x34
  | .closeAgent _ => 0x35
  | .clearWatermark _ => 0x36
  | .takeNotices _ => 0x40
  | .nextDue _ _ _ => 0x41
  | .tableSummary => 0x42
  | .readTime => 0x50
  | .setTime _ _ => 0x51
  | .alignMinute => 0x52
  | .setRegulation _ => 0x53
  | .setLine _ _ _ _ _ _ => 0x60
  | .readLine _ => 0x61
  | .setAttentionMask _ => 0x70
  | .readAttention => 0x71

/-- The widths in bytes of the eleven plan fields (R192). -/
def planWidths : List Nat := [4, 6, 4, 2, 1, 1, 2, 2, 2, 1, 1]

/-- The widths in bytes of the fields of each request, by its code; `none` for a code that names no request (R192). -/
def requestWidths : Nat → Option (List Nat)
  | 0x01 => some [4, 1, 4, 4]
  | 0x02 => some [4]
  | 0x03 => some [4, 1]
  | 0x04 => some [4]
  | 0x05 => some [4, 4]
  | 0x06 => some [4, 1]
  | 0x07 => some [4, 1]
  | 0x10 => some (1 :: planWidths)
  | 0x11 => some (1 :: 2 :: planWidths)
  | 0x12 => some [1]
  | 0x13 => some [1]
  | 0x20 => some [4, 4]
  | 0x21 => some [4, 4]
  | 0x22 => some [4, 4]
  | 0x30 => some [1, 4, 4, 1, 1]
  | 0x31 => some [1, 1, 4, 4, 1, 1]
  | 0x32 => some [1]
  | 0x33 => some [1]
  | 0x34 => some [1]
  | 0x35 => some [1]
  | 0x36 => some [1]
  | 0x40 => some [1]
  | 0x41 => some [4, 4, 1]
  | 0x42 => some []
  | 0x50 => some []
  | 0x51 => some [2, 1, 1, 1, 1, 1, 1]
  | 0x52 => some []
  | 0x53 => some [1]
  | 0x60 => some [1, 1, 1, 1, 1, 1]
  | 0x61 => some [1]
  | 0x70 => some [1]
  | 0x71 => some []
  | _ => none

/-- Cuts a run of bytes into numbers of the given widths, most significant byte first. -/
def readBE : List Nat → List Byte → List Nat
  | [], _ => []
  | w :: ws, bytes => ofBE (bytes.take w) :: readBE ws (bytes.drop w)

/-- The plan fields of eleven numbers. -/
def planNumsOf : List Nat → Option PlanNums
  | [rate, price, minimum, capDays, capMode, rounding, lease, renew, lead, window, clawBack] =>
    some ⟨rate, price, minimum, capDays, capMode, rounding, lease, renew, lead, window, clawBack⟩
  | _ => none

/-- The request on records (chapter 1) of a code and its numbers. -/
def recordRequestOf : Nat → List Nat → Option Request
  | 0x01, [kit, plan, key, base] => some (.enrolKit kit plan key base)
  | 0x02, [kit] => some (.lookupKit kit)
  | 0x03, [kit, reason] => some (.suspendKit kit reason)
  | 0x04, [kit] => some (.resumeKit kit)
  | 0x05, [kit, key] => some (.setKitKey kit key)
  | 0x06, [kit, plan] => some (.movePlan kit plan)
  | 0x07, [kit, force] => some (.retireKit kit force)
  | 0x20, [kit, amount] => some (.pay kit amount)
  | 0x21, [kit, reference] => some (.confirm kit reference)
  | 0x22, [kit, reference] => some (.reverse kit reference)
  | _, _ => none

/-- The request on plans (chapter 3) of a code and its numbers. -/
def planRequestOf : Nat → List Nat → Option Request
  | 0x10, plan :: rest => (planNumsOf rest).map (.definePlan plan)
  | 0x11, plan :: changes :: rest => (planNumsOf rest).map (.amendPlan plan changes)
  | 0x12, [plan] => some (.readPlan plan)
  | 0x13, [plan] => some (.releasePlan plan)
  | _, _ => none

/-- The request on agents (chapter 5) of a code and its numbers. -/
def agentRequestOf : Nat → List Nat → Option Request
  | 0x30, [agent, key, limit, policy, window] => some (.openAgent agent ⟨key, limit, policy, window⟩)
  | 0x31, [agent, changes, key, limit, policy, window] =>
    some (.amendAgent agent changes ⟨key, limit, policy, window⟩)
  | 0x32, [agent] => some (.readAgent agent)
  | 0x33, [agent] => some (.barAgent agent)
  | 0x34, [agent] => some (.unbarAgent agent)
  | 0x35, [agent] => some (.closeAgent agent)
  | 0x36, [agent] => some (.clearWatermark agent)
  | _, _ => none

/-- The remaining requests (chapters 6, 8, 9 and 10) of a code and its numbers. -/
def partRequestOf : Nat → List Nat → Option Request
  | 0x40, [count] => some (.takeNotices count)
  | 0x41, [instant, kit, count] => some (.nextDue instant kit count)
  | 0x42, [] => some .tableSummary
  | 0x50, [] => some .readTime
  | 0x51, [year, month, day, hour, minute, second, step] =>
    some (.setTime ⟨year, month, day, hour, minute, second⟩ step)
  | 0x52, [] => some .alignMinute
  | 0x53, [value] => some (.setRegulation value)
  | 0x60, [line, role, rate, parity, stopBits, duplex] => some (.setLine line role rate parity stopBits duplex)
  | 0x61, [line] => some (.readLine line)
  | 0x70, [mask] => some (.setAttentionMask mask)
  | 0x71, [] => some .readAttention
  | _, _ => none

/-- The request a frame holds; `none` when its kind names no request or its length does not fit its kind (R177). -/
def Frame.request (f : Frame) : Option Request :=
  match requestWidths f.kind.toNat with
  | none => none
  | some widths =>
    if f.fields.length = widths.sum then
      let nums := readBE widths f.fields
      (recordRequestOf f.kind.toNat nums).orElse fun _ =>
        (planRequestOf f.kind.toNat nums).orElse fun _ =>
          (agentRequestOf f.kind.toNat nums).orElse fun _ => partRequestOf f.kind.toNat nums
    else none

/-- The eleven plan fields as numbers, in the order of DEFINE PLAN. -/
def PlanNums.nums (p : PlanNums) : List Nat :=
  [p.rate, p.price, p.minimum, p.capDays, p.capMode, p.rounding, p.lease, p.renew, p.lead, p.window, p.clawBack]

/-- The numbers a request's frame carries, in the order of R192. -/
def Request.nums : Request → List Nat
  | .enrolKit kit plan key base => [kit, plan, key, base]
  | .lookupKit kit => [kit]
  | .suspendKit kit reason => [kit, reason]
  | .resumeKit kit => [kit]
  | .setKitKey kit key => [kit, key]
  | .movePlan kit plan => [kit, plan]
  | .retireKit kit force => [kit, force]
  | .definePlan plan fields => plan :: fields.nums
  | .amendPlan plan changes fields => plan :: changes :: fields.nums
  | .readPlan plan => [plan]
  | .releasePlan plan => [plan]
  | .pay kit amount => [kit, amount]
  | .confirm kit reference => [kit, reference]
  | .reverse kit reference => [kit, reference]
  | .openAgent agent f => [agent, f.key, f.limit, f.policy, f.window]
  | .amendAgent agent changes f => [agent, changes, f.key, f.limit, f.policy, f.window]
  | .readAgent agent => [agent]
  | .barAgent agent => [agent]
  | .unbarAgent agent => [agent]
  | .closeAgent agent => [agent]
  | .clearWatermark agent => [agent]
  | .takeNotices count => [count]
  | .nextDue instant kit count => [instant, kit, count]
  | .tableSummary => []
  | .readTime => []
  | .setTime t step => [t.year, t.month, t.day, t.hour, t.minute, t.second, step]
  | .alignMinute => []
  | .setRegulation value => [value]
  | .setLine line role rate parity stopBits duplex => [line, role, rate, parity, stopBits, duplex]
  | .readLine line => [line]
  | .setAttentionMask mask => [mask]
  | .readAttention => []

/-- Spells numbers in the given widths, most significant byte first. -/
def writeBE : List Nat → List Nat → List Byte
  | w :: ws, v :: vs => bytesBE w v ++ writeBE ws vs
  | _, _ => []

/-- The frame of a request (R192). -/
def Request.frame (r : Request) : Frame :=
  ⟨BitVec.ofNat 8 r.code, writeBE ((requestWidths r.code).getD []) r.nums⟩

/-- The whole frame of a request on the wire: kind, length, fields, frame check (R192, R193). -/
def Frame.wire (f : Frame) : List Byte :=
  let head := f.kind :: BitVec.ofNat 8 (f.fields.length + 2) :: f.fields
  head ++ bytesBE 2 (frameCheck head).toNat

/-- Every number of the request fits the width its field has on the wire. -/
def Request.fits (r : Request) : Bool :=
  (List.zipWith (fun w v => decide (v < 256 ^ w)) ((requestWidths r.code).getD []) r.nums).all id

/-! ## Line messages (R190) -/

/-- The marker byte that begins every line message (R190). -/
def lineMarker : Byte := 0xA5

/-- The length of each kind of line message; `none` for a byte that names no kind (R190). -/
def kindLength : Nat → Option Nat
  | 0x31 => some 16
  | 0x32 => some 17
  | 0x41 => some 18
  | 0x42 => some 24
  | 0x43 => some 10
  | 0x44 => some 15
  | _ => none

/-- The kinds a role takes in (R166). -/
def takenIn : Role → Nat → Bool
  | .kit, 0x31 => true
  | .agent, 0x41 => true
  | .agent, 0x43 => true
  | _, _ => false

/-- Cuts a run of bytes into numbers of the given widths, least significant byte first. -/
def readLE : List Nat → List Byte → List Nat
  | [], _ => []
  | w :: ws, bytes => ofLE (bytes.take w) :: readLE ws (bytes.drop w)

/-- The message that kind, payload and keyed check spell, when the kind is one that can be taken in (R190). -/
def messageOf (bytes : List Byte) : Option Message :=
  match bytes with
  | [] => none
  | kind :: rest =>
    match kind.toNat with
    | 0x31 =>
      match readLE [4, 4, 2, 1, 4] rest with
      | [kit, held, energy, flags, check] =>
        some (.checkIn ⟨kit, held, energy, BitVec.ofNat 8 flags, BitVec.ofNat 32 check⟩)
      | _ => none
    | 0x41 =>
      match readLE [1, 4, 4, 4, 4] rest with
      | [agent, kit, amount, reference, check] => some (.topUp ⟨agent, kit, amount, reference, BitVec.ofNat 32 check⟩)
      | _ => none
    | 0x43 =>
      match readLE [1, 4, 4] rest with
      | [agent, kit, check] => some (.status ⟨agent, kit, BitVec.ofNat 32 check⟩)
      | _ => none
    | _ => none

/-- The bytes the keyed check of a CHECK-IN covers: length, kind and payload (R190, R191). -/
def CheckInMsg.covered (m : CheckInMsg) : List Byte :=
  [16, 0x31] ++ bytesLE 4 m.kit ++ bytesLE 4 m.held ++ bytesLE 2 m.energy ++ [m.flags]

/-- The bytes the keyed check of a TOP-UP covers. -/
def TopUpMsg.covered (m : TopUpMsg) : List Byte :=
  [18, 0x41] ++ bytesLE 1 m.agent ++ bytesLE 4 m.kit ++ bytesLE 4 m.amount ++ bytesLE 4 m.reference

/-- The bytes the keyed check of a STATUS covers. -/
def StatusMsg.covered (m : StatusMsg) : List Byte := [10, 0x43] ++ bytesLE 1 m.agent ++ bytesLE 4 m.kit

/-- The kit flags of a flags byte; reserved bits are disregarded (R190). -/
def kitFlagsOf (b : Byte) : KitFlags := ⟨b.getLsbD 0, b.getLsbD 1⟩

/-! ## Ranges that several requests check -/

/-- A kit id that can be in the directory: 1 to 4,294,967,294 (R3). -/
def kitInRange (kit : Nat) : Bool := 1 ≤ kit && kit < Config.max32

/-- A plan number 0 to 31. -/
def planInRange (plan : Nat) : Bool := plan < Config.planSlots

/-- An agent number 1 to 64. -/
def agentInRange (agent : Nat) : Bool := 1 ≤ agent && agent ≤ Config.agentSlots

end Sys2Proof.Machine
end

