-- ==== Sys2Proof/Machine/Flags.lean ====
section
/-! DEFINITION. The flag sets: the notices of a record, the flags of a line, the causes of the attention output and
the attention line (R113, R171, R182). -/

namespace Sys2Proof.Machine

/-! ## Notices -/

/-- Adds a kind to the set; a kind already in it stays (R113). -/
def NoticeFlags.raise (f : NoticeFlags) : Notice → NoticeFlags
  | .remind => { f with remind := true }
  | .lapsed => { f with lapsed := true }
  | .defaulted => { f with defaulted := true }
  | .timedSettlement => { f with timedSettlement := true }
  | .overhang => { f with overhang := true }
  | .owned => { f with owned := true }
  | .checkFault => { f with checkFault := true }
  | .grantMismatch => { f with grantMismatch := true }
  | .tamper => { f with tamper := true }

/-- Whether a kind is in the set. -/
def NoticeFlags.has (f : NoticeFlags) : Notice → Bool
  | .remind => f.remind
  | .lapsed => f.lapsed
  | .defaulted => f.defaulted
  | .timedSettlement => f.timedSettlement
  | .overhang => f.overhang
  | .owned => f.owned
  | .checkFault => f.checkFault
  | .grantMismatch => f.grantMismatch
  | .tamper => f.tamper

/-- The number that Booleans spell, bit 0 first. -/
def bitsNat : List Bool → Nat
  | [] => 0
  | b :: rest => b.toNat + 2 * bitsNat rest

/-- The flags as the two bytes of R192 carry them, bits 0 to 8. -/
def NoticeFlags.bits (f : NoticeFlags) : Nat :=
  bitsNat [f.remind, f.lapsed, f.defaulted, f.timedSettlement, f.overhang, f.owned, f.checkFault, f.grantMismatch,
    f.tamper]

/-- The kit flags as R190 carries them. -/
def KitFlags.bits (f : KitFlags) : Nat := bitsNat [f.tamper, f.lowBattery]

/-! ## Line flags -/

/-- The flags as R192 carries them, bits 0 to 7. -/
def LineFlags.bits (f : LineFlags) : Nat :=
  bitsNat [f.framing, f.parity, f.messageOverrun, f.gap, f.badLength, f.unknownKind, f.wrongRole, f.unknownSender]

/-- The three flags that make LINE FAULT hold (R171). -/
def LineFlags.fault (f : LineFlags) : Bool := f.framing || f.parity || f.messageOverrun

/-! ## Levels of outputs -/

/-- The level of a line's output or of the port's data out. -/
inductive Level where
  | highImpedance | zero | one
  deriving DecidableEq, Repr

/-- The level of a bit. -/
def Level.ofBit (b : Bool) : Level := if b then .one else .zero

/-! ## Attention -/

/-- A set of causes as R192 carries it, bits 0 to 6. -/
def Causes.bits (c : Causes) : Nat :=
  bitsNat [c.responseReady, c.noticesWaiting, c.lineFault, c.agentWatermark, c.poolLow, c.timeUnset, c.backupLow]

/-- The causes that are in both sets. -/
def Causes.inter (a b : Causes) : Causes :=
  ⟨a.responseReady && b.responseReady, a.noticesWaiting && b.noticesWaiting, a.lineFault && b.lineFault,
    a.agentWatermark && b.agentWatermark, a.poolLow && b.poolLow, a.timeUnset && b.timeUnset,
    a.backupLow && b.backupLow⟩

/-- Whether a set holds any cause. -/
def Causes.any (c : Causes) : Bool :=
  c.responseReady || c.noticesWaiting || c.lineFault || c.agentWatermark || c.poolLow || c.timeUnset || c.backupLow

/-- POOL LOW holds while fewer than 64 pool entries are free (R65). -/
def Engine.poolLow (e : Engine) : Bool := e.poolFree < Config.poolLowBelow

/-- The causes holding, each read from the block that owns it (R182). -/
def State.causes (s : State) : Causes :=
  { responseReady := s.port.state == .ready
    noticesWaiting := !s.engine.notices.isEmpty
    lineFault := s.lines.line0.flags.fault || s.lines.line1.flags.fault || s.lines.line2.flags.fault
      || s.lines.line3.flags.fault
    agentWatermark := s.engine.agents.any (fun a => a.2.watermark)
    poolLow := s.engine.poolLow
    timeUnset := s.calendar.state == .unset
    backupLow := s.supply.backupLow }

/-- The attention line: asserted in RUNNING and STARTING while an enabled cause holds (R182). -/
def State.attention (s : State) : Bool :=
  (s.supply.state == .running || s.supply.state == .starting) && (s.mask.inter s.causes).any

end Sys2Proof.Machine
end

