-- ==== Sys2Proof/Machine/Current.lean ====
section
/-! DEFINITION. Work on one record: notices, the due entry, ownership, settlement, payment, and the one procedure of
bringing a record current (R8 to R10, R35 to R37, R76 to R78, R104, R105, R113, R114). -/

namespace Sys2Proof.Machine

/-- The record a request works on, taken out of its slot, with its plan and the engine's tables. The record in the
table is the old one until `commit`. -/
structure Work where
  engine : Engine
  slot   : Nat
  record : Record
  plan   : Plan
  deriving DecidableEq, Repr

/-- Puts the record back into its slot. -/
def Work.commit (w : Work) : Engine := { w.engine with accounts := w.engine.accounts.put w.slot w.record }

/-- What a search of the directory ends with (R3): no such kit, its record with its plan, or a directory entry whose
record or plan is missing (no such state is reached, log entry 21). -/
inductive Found where
  | unknown
  | broken
  | found (w : Work)
  deriving DecidableEq, Repr

/-- Finds a kit through the directory (R3). The directory is searched by number; the manual's bisection gives the same
answer on a sorted directory (log entry 22). -/
def Engine.find (e : Engine) (kit : Nat) : Found :=
  match e.directory.get kit with
  | none => .unknown
  | some slot =>
    match e.accounts.get slot with
    | none => .broken
    | some r =>
      match e.plans.get r.plan with
      | none => .broken
      | some p => .found ⟨e, slot, r, p⟩

/-! ## Notices (R113, R114) -/

/-- Raises a notice: it joins the record's set, and a record whose set was empty joins the notice list at its tail. -/
def Work.raise (w : Work) (n : Notice) : Work :=
  { w with
    engine := { w.engine with
      notices := if w.record.notices = .clear then w.engine.notices ++ [w.record.kit] else w.engine.notices }
    record := { w.record with notices := w.record.notices.raise n } }

/-- Raises a notice when a condition holds. -/
def Work.raiseIf (w : Work) (c : Bool) (n : Notice) : Work := if c then w.raise n else w

/-! ## The due entry (R104, R105) -/

/-- The due entry that state, paid-through, reminder raised and plan call for (R104). -/
def Record.dueFor (r : Record) (p : Plan) : Option (DueKind × Nat) :=
  match r.state, r.paid with
  | .active, some paid => if 0 < p.lead && !r.reminded then some (.remind, paid - p.lead) else some (.lapse, paid)
  | .lapsed, some paid => some (.default, paid + p.window * Config.dayMinutes)
  | _, _ => none

/-- The expiry index without the kit's entry, and with the given one when it is present (R105). -/
def rekeyed (index : List DueItem) (kit slot : Nat) (due : Option (DueKind × Nat)) : List DueItem :=
  match due with
  | none => dueRemove kit index
  | some (kind, instant) => dueInsert ⟨instant, kit, slot, kind⟩ (dueRemove kit index)

/-- Re-keying (R105). -/
def Work.rekey (w : Work) : Work :=
  let due := w.record.dueFor w.plan
  { w with
    engine := { w.engine with expiry := rekeyed w.engine.expiry w.record.kit w.slot due }
    record := { w.record with due := due } }

/-- The record leaves the expiry index and its due entry becomes absent (R10, R16). -/
def Work.unkey (w : Work) : Work :=
  { w with
    engine := { w.engine with expiry := dueRemove w.record.kit w.engine.expiry }
    record := { w.record with due := none } }

/-! ## State of credit (R8) -/

/-- The state that paid-through and the default window, in days, call for at `t` (the table of R8). -/
def creditState (paid : Option Nat) (window t : Nat) : RecordState :=
  match paid with
  | none => .enrolled
  | some p =>
    if t < p then .active
    else if t < p + window * Config.dayMinutes then .lapsed
    else .defaulted

/-- The state a record has after recomputation at `t`; SUSPENDED and OWNED are kept (R8). -/
def Record.recomputed (r : Record) (p : Plan) (t : Nat) : RecordState :=
  match r.state with
  | .suspended => .suspended
  | .owned => .owned
  | .enrolled | .active | .lapsed | .defaulted => creditState r.paid p.window t

/-- Recomputation: it raises no notice by itself (R8). -/
def Work.recompute (w : Work) (t : Nat) : Work :=
  { w with record := { w.record with state := w.record.recomputed w.plan t } }

/-- Whether REMIND is due: the record is ACTIVE, the lead is above 0, paid-through is within the lead and no reminder
has been raised (R9 step 5, R17, R20, R36). -/
def Record.remindDue (r : Record) (p : Plan) (t : Nat) : Bool :=
  r.state == .active && 0 < p.lead && r.paid.getD 0 - t ≤ p.lead && !r.reminded

/-- Raises REMIND when it is due; reminder raised becomes "yes". -/
def Work.remind (w : Work) (t : Nat) : Work :=
  if w.record.remindDue w.plan t then
    let w := w.raise .remind
    { w with record := { w.record with reminded := true } }
  else w

/-- The notices of a change from the state `before` (the table of R36). The recomputation of a record that a backward step
returns to ACTIVE raises none (R112); the third row of the table holds of it as of any record that ends ACTIVE (log entry
34). -/
def Work.creditNotices (w : Work) (before : RecordState) (t : Nat) : Work :=
  let after := w.record.state
  ((w.raiseIf (before == .active && (after == .lapsed || after == .defaulted)) .lapsed).raiseIf
    ((before == .active || before == .lapsed) && after == .defaulted) .defaulted).remind t

/-! ## Ownership (R10) -/

/-- The record becomes OWNED. -/
def Work.becomeOwned (w : Work) : Work :=
  let w := w.unkey
  { w with record := { w.record with confirmed := w.plan.price, state := .owned, reason := none } }.raise .owned

/-! ## Settlement of an entry (R76 to R78) -/

/-- Changes an agent's slot, if it has fields. -/
def Engine.changeAgent (e : Engine) (n : Nat) (f : Agent → Agent) : Engine :=
  match e.agents.get n with
  | some a => { e with agents := e.agents.put n (f a) }
  | none => e

/-- Adds to a total that saturates at 2^48 - 1 (R57, R91). -/
def addTotal (total amount : Nat) : Nat := min (total + amount) Config.totalMax

/-- The entry's money leaves the agent's outstanding for the settled total (R76 step 2). -/
def Agent.settle (a : Agent) (amount : Nat) : Agent :=
  { a with outstanding := a.outstanding - amount, settled := addTotal a.settled amount }

/-- The entry's money leaves the agent's outstanding for the reversed total (R77 step 2). -/
def Agent.unsettle (a : Agent) (amount : Nat) : Agent :=
  { a with outstanding := a.outstanding - amount, reversed := addTotal a.reversed amount }

/-- The entry leaves the pending list and the settlement index, and its pool entry becomes free (step 1 of R76, R77). -/
def Work.dropEntry (w : Work) (e : Entry) : Work :=
  { w with
    engine := { w.engine with
      poolFree := w.engine.poolFree + 1
      settlement := settleRemove w.record.kit e.reference w.engine.settlement }
    record := { w.record with pending := removeEntry e.reference w.record.pending } }

/-- Confirms an entry (R76, R78); also the overpayment that R76 step 4 gives. -/
def Work.confirmEntry (w : Work) (e : Entry) : Work × Nat :=
  let w := w.dropEntry e
  let w := { w with engine := w.engine.changeAgent e.agent (fun a => a.settle e.amount) }
  if w.record.state = .owned then (w, 0)
  else
    let w := { w with record := { w.record with residue := min (w.record.residue + e.remainder) Config.residueMax } }
    let total := w.record.confirmed + e.amount
    if w.plan.price = 0 then ({ w with record := { w.record with confirmed := min total Config.totalMax } }, 0)
    else if w.plan.price ≤ total then (w.becomeOwned, total - w.plan.price)
    else ({ w with record := { w.record with confirmed := total } }, 0)

/-- Whether the offered RUN reaches beyond paid-through (R77 step 5, R84). -/
def Record.runsBeyondPaid (r : Record) : Bool := 0 < r.overhang

/-- Reverses an entry (R77, R78). -/
def Work.reverseEntry (w : Work) (e : Entry) : Work :=
  let w := w.dropEntry e
  let w := { w with engine := w.engine.changeAgent e.agent (fun a => a.unsettle e.amount) }
  if w.record.state = .owned then w
  else
    let w := { w with record := { w.record with paid := w.record.paid.map (fun p => p - e.minutes) } }
    w.raiseIf w.record.runsBeyondPaid .overhang

/-- The timeout policy of the entry's agent as it stands (R35, R93). An entry's agent is never CLOSED (R100); for such
a state, which no run reaches, REVERSE is taken (log entry 23). -/
def Engine.policyOf (e : Engine) (agent : Nat) : Policy :=
  match e.agents.get agent with
  | some a => a.policy
  | none => .reverse

/-- An entry settled at its deadline (R81). -/
def Work.timedSettle (w : Work) (e : Entry) : Work :=
  match w.engine.policyOf e.agent with
  | .confirm => (w.confirmEntry e).1.raise .timedSettlement
  | .reverse => (w.reverseEntry e).raise .timedSettlement

/-- Settles every entry whose deadline is at or before `t`, in the order of the settlement index (R35). -/
def Work.settleDue (w : Work) (t : Nat) : Work := (dueEntries t w.record.pending).foldl Work.timedSettle w

/-! ## Bringing current (R35 to R37) -/

/-- Settle, recompute, raise notices, re-key. -/
def Work.current (w : Work) (t : Nat) : Work :=
  (((w.settleDue t).recompute t).creditNotices w.record.state t).rekey

/-! ## An accepted payment (R9) -/

/-- Credits `m` minutes from the base at `t`: paid-through, reminder raised, state, REMIND, due entry (R9). -/
def Work.credit (w : Work) (m t : Nat) : Work :=
  let paid := w.record.base t + m
  let w := { w with record := { w.record with
    paid := some paid
    reminded := w.record.reminded && paid - t ≤ w.plan.lead } }
  ((w.recompute t).remind t).rekey

end Sys2Proof.Machine
end

