-- ==== Sys2Proof/Machine/Layout.lean ====
section
/-! DEFINITION. The layouts of what the part sends: response fields in the type table's encodings, responses, replies
and their keyed checks (R190 to R193). -/

namespace Sys2Proof.Machine

/-! ## Codes (R190, R192) -/

def Result.code : Result → Nat
  | .done => 0x00
  | .unknownKit => 0x01
  | .unknownPlan => 0x02
  | .unknownAgent => 0x03
  | .unknownReference => 0x04
  | .duplicateKit => 0x05
  | .duplicateReference => 0x06
  | .tableFull => 0x07
  | .poolFull => 0x08
  | .pendingFull => 0x09
  | .belowMinimum => 0x0A
  | .capExceeded => 0x0B
  | .floatExceeded => 0x0C
  | .agentBarred => 0x0D
  | .wrongState => 0x0E
  | .planInUse => 0x0F
  | .entriesPending => 0x10
  | .timeUnset => 0x11
  | .stepTooLarge => 0x12
  | .badField => 0x13
  | .stopping => 0x14

def RecordState.code : RecordState → Nat
  | .enrolled => 1
  | .active => 2
  | .lapsed => 3
  | .defaulted => 4
  | .suspended => 5
  | .owned => 6

def ReplyKind.code : ReplyKind → Nat
  | .run => 1
  | .lock => 2
  | .owned => 3
  | .hold => 4

def GrantKind.code : GrantKind → Nat
  | .run => 1
  | .lock => 2
  | .owned => 3

def DueKind.code : DueKind → Nat
  | .remind => 1
  | .lapse => 2
  | .default => 3

def CapMode.code : CapMode → Nat
  | .refuse => 1
  | .clamp => 2

def Rounding.code : Rounding → Nat
  | .carry => 1
  | .nearestEven => 2
  | .halfUp => 3

def Policy.code : Policy → Nat
  | .reverse => 1
  | .confirm => 2

def Role.code : Role → Nat
  | .off => 0
  | .kit => 1
  | .agent => 2

def Rate.code : Rate → Nat
  | .r1200 => 1
  | .r2400 => 2
  | .r4800 => 3
  | .r9600 => 4
  | .r19200 => 5

def Parity.code : Parity → Nat
  | .none => 0
  | .even => 1
  | .odd => 2

def StopBits.count : StopBits → Nat
  | .one => 1
  | .two => 2

def Duplex.code : Duplex → Nat
  | .half => 0
  | .full => 1

def CalendarState.code : CalendarState → Nat
  | .unset => 0
  | .known => 1

def Assembler.code : Assembler → Nat
  | .hunt => 0
  | .length => 1
  | .body _ _ => 2
  | .skip _ => 3

/-! ## Fields of a response, by the types of R192 -/

/-- One byte: a plan, agent or line number, a count to 255, a percentage, a code. -/
def byteField (v : Nat) : Field := ⟨1, v⟩

/-- Two bytes: a slot, a count that can exceed 255, a prepay cap, a lease, a renew step, a lead, a year, a sub-second
count, notice flags. -/
def pairField (v : Nat) : Field := ⟨2, v⟩

/-- Four bytes: a kit id, grant number, reference, district minute, amount, rate, minimum, limit, minutes, energy. -/
def wordField (v : Nat) : Field := ⟨4, v⟩

/-- Six bytes: a confirmed total, price, outstanding, headroom, settled or reversed total. -/
def moneyField (v : Nat) : Field := ⟨6, v⟩

/-- Five bytes: a residue. -/
def residueField (v : Nat) : Field := ⟨5, v⟩

/-- A yes or no, set or clear, asserted or released: 01h or 00h. -/
def flagField (b : Bool) : Field := ⟨1, b.toNat⟩

/-- A district minute; marked absent it is FFFFFFFFh. -/
def minuteField (t : Option Nat) : Field := ⟨4, t.getD Config.max32⟩

/-- A kit id or reference; marked absent it is 00000000h. -/
def nameField (n : Option Nat) : Field := ⟨4, n.getD 0⟩

/-- A suspend reason in a response; FFFFh marks it absent. -/
def reasonField (r : Option Nat) : Field := ⟨2, r.getD 0xFFFF⟩

/-- A state; 0 marks it absent. -/
def stateField (s : Option RecordState) : Field := ⟨1, (s.map RecordState.code).getD 0⟩

/-- A line number; FFh marks it absent. -/
def lineField (n : Option LineNo) : Field := ⟨1, (n.map lineIndex).getD 0xFF⟩

/-- The kit's display form in one byte: bits 0 to 6 the days, bit 7 MORE. -/
def Days.kitByte (d : Days) : Nat := d.days + 128 * d.more.toNat

/-- A due kind and instant; kind 0 marks it absent. -/
def dueFields (due : Option (DueKind × Nat)) : List Field :=
  [byteField ((due.map (fun d => d.1.code)).getD 0), minuteField (due.map Prod.snd)]

/-- A calendar field of the date and time: year in two bytes, the rest in one each. -/
def dateFields (t : DateTime) : List Field :=
  [pairField t.year, byteField t.month, byteField t.day, byteField t.hour, byteField t.minute, byteField t.second]

/-- The regulation value in one byte, two's complement. -/
def regulationField (v : Int) : Field := ⟨1, (BitVec.ofInt 8 v).toNat⟩

/-- The five settings of a line. -/
def Settings.fields (s : Settings) : List Field :=
  [byteField s.role.code, byteField s.rate.code, byteField s.parity.code, byteField s.stopBits.count,
    byteField s.duplex.code]

/-- The last unknown sender: its sort, then its value in four bytes, which are 0 when it is absent (R192 does not say; log
entry 36). -/
def senderFields : Option Sender → List Field
  | none => [byteField 0, wordField 0]
  | some (.kit id) => [byteField 1, wordField id]
  | some (.agent number) => [byteField 2, wordField number]

/-- The eleven fields of a plan, in the order of DEFINE PLAN. -/
def Plan.fields (p : Plan) : List Field :=
  [wordField p.rate, moneyField p.price, wordField p.minimum, pairField p.capDays, byteField p.capMode.code,
    byteField p.rounding.code, pairField p.lease, pairField p.renew, pairField p.lead, byteField p.window,
    flagField p.clawBack]

/-! ## Responses (R192) -/

/-- The bytes of a response: the kind, the length of what follows it, the result, the fields and the frame check. -/
def Response.bytes (r : Response) : List Byte :=
  let body := BitVec.ofNat 8 r.result.code :: r.fields.flatMap (fun f => bytesBE f.width f.value)
  let head := r.kind :: BitVec.ofNat 8 (body.length + 2) :: body
  head ++ bytesBE 2 (frameCheck head).toNat

/-! ## Replies (R190) -/

/-- Length, kind and payload of a reply: what its keyed check covers. -/
def ReplyBody.covered : ReplyBody → List Byte
  | .grant g =>
    [17, 0x32] ++ bytesLE 4 g.kit ++ bytesLE 4 g.number ++ bytesLE 1 g.kind.code ++ bytesLE 2 g.runMinutes
      ++ bytesLE 1 g.days.kitByte
  | .topUp a =>
    [24, 0x42] ++ bytesLE 4 a.reference ++ bytesLE 1 a.result.code ++ bytesLE 4 a.minutes ++ bytesLE 4 a.accepted
      ++ bytesLE 4 a.surplus ++ bytesLE 1 a.days.days ++ bytesLE 1 a.days.more.toNat
  | .status a =>
    [15, 0x44] ++ bytesLE 1 a.result.code ++ bytesLE 4 a.kit ++ bytesLE 1 ((a.state.map RecordState.code).getD 0)
      ++ bytesLE 1 a.days.days ++ bytesLE 1 a.days.more.toNat ++ bytesLE 1 a.pending ++ bytesLE 1 a.progress

/-- The reply with the keyed check computed with a key (R191). -/
def ReplyBody.sealed (b : ReplyBody) (key : Word32) : Reply := ⟨b, keyedCheck key b.covered⟩

/-- The bytes sent on the line: marker, length, kind, payload, keyed check least significant byte first. -/
def Reply.bytes (r : Reply) : List Byte := lineMarker :: r.body.covered ++ bytesLE 4 r.check.toNat

end Sys2Proof.Machine
end

