-- ==== Sys2Proof/Machine/Arbiter.lean ====
section
/-! DEFINITION. The engine arbiter, the take of a request and the delivery of a response (R27 to R33, R179). -/

namespace Sys2Proof.Machine

/-- The requester after this one in the circular order of R29. -/
def Requester.next : Requester → Requester
  | .port => .line .line0
  | .line .line0 => .line .line1
  | .line .line1 => .line .line2
  | .line .line2 => .line .line3
  | .line .line3 => .expiryPass
  | .expiryPass => .settlementPass
  | .settlementPass => .port

/-- `n` requesters in circular order from the given one. -/
def Requester.circle : Nat → Requester → List Requester
  | 0, _ => []
  | n + 1, r => r :: Requester.circle n r.next

/-- The due entry at the head of the expiry index is due (R28, R108). -/
def State.expiryDue (s : State) : Bool :=
  s.calendar.state == .known &&
    match s.engine.expiry with
    | [] => false
    | d :: _ => d.instant ≤ s.calendar.districtMinute

/-- The deadline at the head of the settlement index has passed (R28, R66). -/
def State.settlementDue (s : State) : Bool :=
  s.calendar.state == .known &&
    match s.engine.settlement with
    | [] => false
    | d :: _ => d.deadline ≤ s.calendar.districtMinute

/-- Whether a requester is ready (R28). -/
def State.ready (s : State) : Requester → Bool
  | .port => s.port.state == .busy && s.port.request.isSome
  | .line n => !(s.lines.get n).inbound.isEmpty && (s.lines.get n).outbound.length < Config.lineQueue
  | .expiryPass => s.expiryDue
  | .settlementPass => s.settlementDue

/-- Whether a grant can be made: the part is RUNNING, no restart waits and the engine is idle (R27, R33, R188). -/
def State.granting (s : State) : Bool :=
  s.supply.state == .running && !s.supply.resetWaiting && s.hold.isNone

/-- The requester that the next grant goes to: the first ready one in circular order from the pointer; `none` when no
grant is made (R29, R33). -/
def State.grant (s : State) : Option Requester :=
  if s.granting then (Requester.circle 7 s.pointer).find? s.ready else none

/-- The request the port would give up at the next grant: a frame, when the grant goes to the port (R31). -/
def State.grantedFrame (s : State) : Option Frame :=
  if s.grant = some .port then s.port.request else none

/-- The host request the next grant takes, when the frame holds one (R31, R177). -/
def State.grantedRequest (s : State) : Option Request := s.grantedFrame.bind Frame.request

/-- The message the next grant takes, and its line (R31). -/
def State.grantedMessage (s : State) : Option (LineNo × Message) :=
  match s.grant with
  | some (.line n) => (s.lines.get n).inbound.head?.map (fun m => (n, m))
  | _ => none

/-- The request instant (R30). -/
def State.instant (s : State) : Nat := s.calendar.districtMinute

/-- The take of the port's request: the pointer moves on and the request leaves the request buffer (R29, R31). -/
def State.takePort (s : State) : State :=
  { s with pointer := Requester.port.next, port := { s.port with request := none } }

/-- The take of the message at the head of a line's inbound queue (R31, R162). -/
def State.takeLine (s : State) (n : LineNo) : State :=
  let l := s.lines.get n
  { s with
    pointer := (Requester.line n).next
    lines := s.lines.put n { l with inbound := l.inbound.tail, take := .current } }

/-- What a status byte latched now carries (R176). -/
def State.status (s : State) : Status := ⟨s.supply.state, s.port.state, s.port.overrun, s.port.torn⟩

/-- What a status byte latched before the change now at hand carried, with those of the changes before it. -/
def State.statuses (s : State) : List Status := s.status :: s.port.earlier

/-- The response to a request taken from the port is delivered (R31, R179). A stopped port discards it (R181), and so
does a port about to restart, whose restart loses it (R33, R181; log entry 13). -/
def State.deliver (s : State) (r : Response) : State :=
  if s.supply.state = .running && !s.supply.resetWaiting then
    { s with port := { s.port with state := .ready, response := some r, earlier := s.statuses } }
  else s

/-- What the work on a host request leaves: the tables and the response. `none`: the tables were broken. -/
abbrev Handled := Option (Engine × Response)

/-- Completes a host request taken from the port within its step (R27, R31): the tables as the work left them and the
response delivered. -/
def State.answer (s : State) (h : Handled) : Host.Outcome State Fault Refusal :=
  match h with
  | none => .fault .brokenTables
  | some (e, r) => .next ({ s.takePort with engine := e }.deliver r)

/-- A request the engine goes on holding: its command has been sent and not arrived (R27). -/
def State.holdPort (s : State) (h : Hold) : State := { s.takePort with hold := some h }

/-- The engine's held request completes with a response. -/
def State.complete (s : State) (r : Response) : State := { s with hold := none }.deliver r

/-- Sends something to a line, behind what was sent before (R161). -/
def State.send (s : State) (n : LineNo) (i : LineItem) : State :=
  let l := s.lines.get n
  { s with lines := s.lines.put n { l with inFlight := l.inFlight ++ [i] } }

/-! ## The order of work common to record requests (R11, R12) -/

/-- The kind byte of a request's response (R179). -/
def kindByte (r : Request) : Byte := BitVec.ofNat 8 r.code

/-- A response to a record request: result and kit id, then the fields of a DONE response (R12). -/
def kitResponse (r : Request) (kit : Nat) (result : Result) (fields : List Field) : Response :=
  ⟨kindByte r, result, wordField kit :: fields⟩

/-- What a record request does once its record is current: the tables, the result, and the fields after the kit id. -/
abbrev Worked := Engine × Result × List Field

/-- A record request refused after bringing current: the work of bringing current stands (R11, R34). -/
def Work.refuse (w : Work) (result : Result) : Worked := (w.commit, result, [])

/-- A record request carried out. -/
def Work.done (w : Work) (fields : List Field) : Worked := (w.commit, .done, fields)

/-- The steps of R11: field ranges, the directory, other names, bringing current at `t`, then the request's own work. -/
def Engine.onKit (e : Engine) (r : Request) (kit : Nat) (fieldsGood : Bool) (name : Option Result) (t : Nat)
    (work : Work → Worked) : Handled :=
  if !(kitInRange kit && fieldsGood) then some (e, kitResponse r kit .badField [])
  else
    match e.find kit with
    | .unknown => some (e, kitResponse r kit .unknownKit [])
    | .broken => none
    | .found w =>
      match name with
      | some refusal => some (e, kitResponse r kit refusal [])
      | none =>
        let (e', result, fields) := work (w.current t)
        some (e', kitResponse r kit result fields)

end Sys2Proof.Machine
end

