-- ==== Sys2Proof/Machine/PlanRequests.lean ====
section
/-! DEFINITION. The four host requests on plans (chapter 3): DEFINE PLAN, AMEND PLAN, READ PLAN, RELEASE PLAN. -/

namespace Sys2Proof.Machine

/-- A response to a plan request: result and plan number, then the fields of a DONE response (R41). -/
def planResponse (r : Request) (plan : Nat) (result : Result) (fields : List Field) : Response :=
  ⟨kindByte r, result, byteField plan :: fields⟩

/-- A value within the bounds of its field. -/
def within (low high v : Nat) : Bool := low ≤ v && v ≤ high

/-- Whether each of the eleven fields lies in its range of R39, in the order of DEFINE PLAN. -/
def PlanNums.inRange (p : PlanNums) : List Bool :=
  [within 1 10000000 p.rate, within 0 1000000000000 p.price, within 1 2000000000 p.minimum, within 1 366 p.capDays,
    (capModeOf p.capMode).isSome, (roundingOf p.rounding).isSome, within 60 10080 p.lease, within 15 1440 p.renew,
    within 0 10080 p.lead, within 1 180 p.window, (flagOf p.clawBack).isSome]

/-- The plan that numbers in range spell; a code out of the table is replaced by the first of its kind, which no
accepted request carries. -/
def PlanNums.plan (p : PlanNums) (refCount : Nat) : Plan :=
  { rate := p.rate, price := p.price, minimum := p.minimum, capDays := p.capDays,
    capMode := (capModeOf p.capMode).getD .refuse, rounding := (roundingOf p.rounding).getD .carry, lease := p.lease,
    renew := p.renew, lead := p.lead, window := p.window, clawBack := (flagOf p.clawBack).getD false,
    refCount := refCount }

/-- What a plan request does: the tables, the result, and the fields after the plan number. -/
abbrev PlanWorked := Engine × Result × List Field

/-- DEFINE PLAN: the checks of R42 in order, then R43. -/
def Engine.definePlan (e : Engine) (plan : Nat) (p : PlanNums) : PlanWorked :=
  if !(planInRange plan && p.inRange.all id && p.renew ≤ p.lease) then (e, .badField, [])
  else if (e.plans.get plan).isSome then (e, .wrongState, [])
  else ({ e with plans := e.plans.put plan (p.plan 0) }, .done, [])

/-- DEFINE_PLAN. -/
def execDefinePlan (s : State) : Host.Outcome State Fault Refusal :=
  match s.grantedRequest with
  | some (.definePlan plan p) =>
    let (e, result, fields) := s.engine.definePlan plan p
    s.answer (some (e, planResponse (.definePlan plan p) plan result fields))
  | _ => .next s

/-- The eleven fields with the change set applied to the plan held (R44): a clear bit keeps the held value. -/
def Plan.amended (held : Plan) (changes : Nat) (p : PlanNums) : Plan :=
  let new := p.plan held.refCount
  { rate := if changes.testBit 0 then new.rate else held.rate
    price := if changes.testBit 1 then new.price else held.price
    minimum := if changes.testBit 2 then new.minimum else held.minimum
    capDays := if changes.testBit 3 then new.capDays else held.capDays
    capMode := if changes.testBit 4 then new.capMode else held.capMode
    rounding := if changes.testBit 5 then new.rounding else held.rounding
    lease := if changes.testBit 6 then new.lease else held.lease
    renew := if changes.testBit 7 then new.renew else held.renew
    lead := if changes.testBit 8 then new.lead else held.lead
    window := if changes.testBit 9 then new.window else held.window
    clawBack := if changes.testBit 10 then new.clawBack else held.clawBack
    refCount := held.refCount }

/-- Every field carried with a new value lies in its range (R44 check 1). -/
def changesInRange (changes : Nat) (good : List Bool) : Bool :=
  good.zipIdx.all (fun g => !changes.testBit g.2 || g.1)

/-- A restricted field is carried with a value different from the one held (R44 check 3). -/
def Plan.restrictedChange (held new : Plan) : Bool :=
  held.price != new.price || held.rounding != new.rounding || held.capDays != new.capDays
    || held.capMode != new.capMode || held.window != new.window

/-- AMEND PLAN: the checks of R44 in order, then R45. A bit of the change set above the last field's is BAD FIELD (R192). -/
def Engine.amendPlan (e : Engine) (plan changes : Nat) (p : PlanNums) : PlanWorked :=
  if !(planInRange plan && changes < 2 ^ 11 && changesInRange changes p.inRange) then (e, .badField, [])
  else
    match e.plans.get plan with
    | none => (e, .unknownPlan, [])
    | some held =>
      let new := held.amended changes p
      if new.lease < new.renew then (e, .badField, [])
      else if 0 < held.refCount && held.restrictedChange new then (e, .planInUse, [])
      else ({ e with plans := e.plans.put plan new }, .done, new.fields)

/-- AMEND_PLAN. -/
def execAmendPlan (s : State) : Host.Outcome State Fault Refusal :=
  match s.grantedRequest with
  | some (.amendPlan plan changes p) =>
    let (e, result, fields) := s.engine.amendPlan plan changes p
    s.answer (some (e, planResponse (.amendPlan plan changes p) plan result fields))
  | _ => .next s

/-- READ PLAN (R46). -/
def Engine.readPlan (e : Engine) (plan : Nat) : PlanWorked :=
  if !planInRange plan then (e, .badField, [])
  else
    match e.plans.get plan with
    | none => (e, .unknownPlan, [])
    | some p => (e, .done, p.fields ++ [pairField p.refCount])

/-- READ_PLAN. -/
def execReadPlan (s : State) : Host.Outcome State Fault Refusal :=
  match s.grantedRequest with
  | some (.readPlan plan) =>
    let (e, result, fields) := s.engine.readPlan plan
    s.answer (some (e, planResponse (.readPlan plan) plan result fields))
  | _ => .next s

/-- RELEASE PLAN (R47). -/
def Engine.releasePlan (e : Engine) (plan : Nat) : PlanWorked :=
  if !planInRange plan then (e, .badField, [])
  else
    match e.plans.get plan with
    | none => (e, .unknownPlan, [])
    | some p => if 0 < p.refCount then (e, .planInUse, []) else ({ e with plans := e.plans.erase plan }, .done, [])

/-- RELEASE_PLAN. -/
def execReleasePlan (s : State) : Host.Outcome State Fault Refusal :=
  match s.grantedRequest with
  | some (.releasePlan plan) =>
    let (e, result, fields) := s.engine.releasePlan plan
    s.answer (some (e, planResponse (.releasePlan plan) plan result fields))
  | _ => .next s

end Sys2Proof.Machine
end

