-- ==== Sys2Proof/Machine/AgentRequests.lean ====
section
/-! DEFINITION. The seven host requests on agents (chapter 5): OPEN, AMEND, READ, BAR, UNBAR, CLOSE AGENT and
CLEAR WATERMARK. -/

namespace Sys2Proof.Machine

/-- A response to an agent request: result and agent number, then the fields of a DONE response (R94). -/
def agentResponse (r : Request) (agent : Nat) (result : Result) (fields : List Field) : Response :=
  ⟨kindByte r, result, byteField agent :: fields⟩

/-- What an agent request does: the tables, the result, and the fields after the agent number. -/
abbrev AgentWorked := Engine × Result × List Field

/-- Largest float limit (R88). -/
def floatMax : Nat := 2000000000

/-- Whether each of the four fields lies in its range of R88, in the order of OPEN AGENT. -/
def AgentNums.inRange (f : AgentNums) : List Bool :=
  [true, f.limit ≤ floatMax, (policyOf f.policy).isSome, within 1 168 f.window]

/-- The slot that OPEN AGENT writes (R95). -/
def AgentNums.opened (f : AgentNums) : Agent :=
  { barred := false, key := BitVec.ofNat 32 f.key, limit := f.limit, outstanding := 0, settled := 0, reversed := 0,
    policy := (policyOf f.policy).getD .reverse, window := f.window, watermark := false }

/-- The checks common to the requests on an open or barred agent: number, then slot (R96 to R101). -/
def Engine.onAgent (e : Engine) (agent : Nat) (good : Bool) (work : Agent → AgentWorked) : AgentWorked :=
  if !(agentInRange agent && good) then (e, .badField, [])
  else
    match e.agents.get agent with
    | none => (e, .unknownAgent, [])
    | some a => work a

/-- Writes an agent's slot. -/
def Engine.putAgent (e : Engine) (agent : Nat) (a : Agent) : Engine := { e with agents := e.agents.put agent a }

/-! ## OPEN AGENT (R95) -/

def Engine.openAgent (e : Engine) (agent : Nat) (f : AgentNums) : AgentWorked :=
  if !(agentInRange agent && f.inRange.all id) then (e, .badField, [])
  else if (e.agents.get agent).isSome then (e, .wrongState, [])
  else (e.putAgent agent f.opened, .done, [])

/-- OPEN_AGENT. -/
def execOpenAgent (s : State) : Host.Outcome State Fault Refusal :=
  match s.grantedRequest with
  | some (.openAgent agent f) =>
    let (e, result, fields) := s.engine.openAgent agent f
    s.answer (some (e, agentResponse (.openAgent agent f) agent result fields))
  | _ => .next s

/-! ## AMEND AGENT (R96, R97) -/

/-- The fields carried with a new value, written over the slot (R97). -/
def Agent.amended (a : Agent) (changes : Nat) (f : AgentNums) : Agent :=
  { a with
    key := if changes.testBit 0 then f.opened.key else a.key
    limit := if changes.testBit 1 then f.opened.limit else a.limit
    policy := if changes.testBit 2 then f.opened.policy else a.policy
    window := if changes.testBit 3 then f.opened.window else a.window }

def Engine.amendAgent (e : Engine) (agent changes : Nat) (f : AgentNums) : AgentWorked :=
  e.onAgent agent (changes < 2 ^ 4 && changesInRange changes f.inRange) fun a =>
    let a := a.amended changes f
    (e.putAgent agent a, .done,
      [wordField a.limit, byteField a.policy.code, byteField a.window, moneyField a.outstanding])

/-- AMEND_AGENT. -/
def execAmendAgent (s : State) : Host.Outcome State Fault Refusal :=
  match s.grantedRequest with
  | some (.amendAgent agent changes f) =>
    let (e, result, fields) := s.engine.amendAgent agent changes f
    s.answer (some (e, agentResponse (.amendAgent agent changes f) agent result fields))
  | _ => .next s

/-! ## READ AGENT (R98) -/

/-- The state of an agent as a response carries it: 1 OPEN, 2 BARRED (R192). -/
def Agent.stateField (a : Agent) : Field := byteField (if a.barred then 2 else 1)

/-- The agent of the pending entry an index entry stands for. -/
def Engine.agentOf (e : Engine) (i : SettleItem) : Option Nat :=
  match e.directory.get i.kit with
  | none => none
  | some slot =>
    match e.accounts.get slot with
    | none => none
    | some r => (findEntry i.reference r.pending).map Entry.agent

/-- The agent's entries in settlement index order (R98). -/
def Engine.entriesOf (e : Engine) (agent : Nat) : List SettleItem :=
  e.settlement.filter (fun i => e.agentOf i == some agent)

/-- The report of READ AGENT, in the order of R98. -/
def Engine.agentFields (e : Engine) (agent : Nat) (a : Agent) : List Field :=
  [a.stateField, wordField a.limit, byteField a.policy.code, byteField a.window, moneyField a.outstanding,
    moneyField (a.limit - a.outstanding), pairField (e.entriesOf agent).length,
    minuteField ((e.entriesOf agent).head?.map SettleItem.deadline), moneyField a.settled, moneyField a.reversed,
    flagField a.watermark]

def Engine.readAgent (e : Engine) (agent : Nat) : AgentWorked :=
  e.onAgent agent true fun a => (e, .done, e.agentFields agent a)

/-- READ_AGENT. -/
def execReadAgent (s : State) : Host.Outcome State Fault Refusal :=
  match s.grantedRequest with
  | some (.readAgent agent) =>
    let (e, result, fields) := s.engine.readAgent agent
    s.answer (some (e, agentResponse (.readAgent agent) agent result fields))
  | _ => .next s

/-! ## BAR AGENT and UNBAR AGENT (R99) -/

/-- Sets the barring of an agent that does not have it yet. -/
def Engine.setBarred (e : Engine) (agent : Nat) (barred : Bool) : AgentWorked :=
  e.onAgent agent true fun a =>
    if a.barred = barred then (e, .wrongState, [])
    else
      let a := { a with barred := barred }
      (e.putAgent agent a, .done, [a.stateField, moneyField a.outstanding])

/-- BAR_AGENT. -/
def execBarAgent (s : State) : Host.Outcome State Fault Refusal :=
  match s.grantedRequest with
  | some (.barAgent agent) =>
    let (e, result, fields) := s.engine.setBarred agent true
    s.answer (some (e, agentResponse (.barAgent agent) agent result fields))
  | _ => .next s

/-- UNBAR_AGENT. -/
def execUnbarAgent (s : State) : Host.Outcome State Fault Refusal :=
  match s.grantedRequest with
  | some (.unbarAgent agent) =>
    let (e, result, fields) := s.engine.setBarred agent false
    s.answer (some (e, agentResponse (.unbarAgent agent) agent result fields))
  | _ => .next s

/-! ## CLOSE AGENT (R100) -/

def Engine.closeAgent (e : Engine) (agent : Nat) : AgentWorked :=
  e.onAgent agent true fun a =>
    if 0 < a.outstanding then (e, .entriesPending, [])
    else ({ e with agents := e.agents.erase agent }, .done,
      [moneyField a.settled, moneyField a.reversed, flagField a.watermark])

/-- CLOSE_AGENT. -/
def execCloseAgent (s : State) : Host.Outcome State Fault Refusal :=
  match s.grantedRequest with
  | some (.closeAgent agent) =>
    let (e, result, fields) := s.engine.closeAgent agent
    s.answer (some (e, agentResponse (.closeAgent agent) agent result fields))
  | _ => .next s

/-! ## CLEAR WATERMARK (R101) -/

def Engine.clearWatermark (e : Engine) (agent : Nat) : AgentWorked :=
  e.onAgent agent true fun a =>
    (e.putAgent agent { a with watermark := false }, .done, [moneyField a.outstanding, wordField a.limit])

/-- CLEAR_WATERMARK. -/
def execClearWatermark (s : State) : Host.Outcome State Fault Refusal :=
  match s.grantedRequest with
  | some (.clearWatermark agent) =>
    let (e, result, fields) := s.engine.clearWatermark agent
    s.answer (some (e, agentResponse (.clearWatermark agent) agent result fields))
  | _ => .next s

end Sys2Proof.Machine
end

