-- ==== Sys2Proof/Machine/Calendar.lean ====
section
/-! DEFINITION. The district calendar: its arithmetic, its own events and the arrival of the engine's commands
(chapter 8), and the time requests (section 8.4). -/

namespace Sys2Proof.Machine

/-! ## Months, years and the district minute (R145, R146) -/

/-- A leap year: divisible by 4, except by 100 and not by 400 (R146). -/
def isLeap (year : Nat) : Bool := year % 4 == 0 && (year % 100 != 0 || year % 400 == 0)

/-- The length of a month (R146); 0 for a number that names no month. -/
def monthLength (year : Nat) : Nat → Nat
  | 1 | 3 | 5 | 7 | 8 | 10 | 12 => 31
  | 4 | 6 | 9 | 11 => 30
  | 2 => if isLeap year then 29 else 28
  | _ => 0

/-- Days from 2000-01-01 to the first day of a year from 2000 on. -/
def daysToYear (year : Nat) : Nat :=
  let y := year - 2000
  365 * y + (y + 3) / 4 - (y + 99) / 100 + (y + 399) / 400

/-- Days from the first day of a year to the first day of its month `m + 1`. -/
def daysToMonth (year : Nat) : Nat → Nat
  | 0 => 0
  | m + 1 => daysToMonth year m + monthLength year (m + 1)

/-- Whole days from 2000-01-01 to the date (R145). -/
def DateTime.days (d : DateTime) : Nat := daysToYear d.year + daysToMonth d.year (d.month - 1) + (d.day - 1)

/-- The district minute that a date and time describe (R145). -/
def DateTime.districtMinute (d : DateTime) : Nat := d.days * Config.dayMinutes + d.hour * 60 + d.minute

/-- Seconds since 2000-01-01 00:00:00 (R153 measures steps in them). -/
def DateTime.seconds (d : DateTime) : Nat := d.districtMinute * 60 + d.second

/-- A date and time within the calendar's range (R145, R153). -/
def DateTime.valid (d : DateTime) : Bool :=
  2000 ≤ d.year && d.year ≤ 2199 && 1 ≤ d.month && d.month ≤ 12 && 1 ≤ d.day && d.day ≤ monthLength d.year d.month
    && d.hour ≤ 23 && d.minute ≤ 59 && d.second ≤ 59

/-- The day of week, 1 MONDAY to 7 SUNDAY, counted from SATURDAY 2000-01-01 (R146, R192). -/
def dayOfWeek (districtMinute : Nat) : Nat := (districtMinute / Config.dayMinutes + 5) % 7 + 1

/-- The last minute of the calendar's range, 2199-12-31 23:59 (R148). -/
def DateTime.lastMinute (d : DateTime) : Bool :=
  d.year == 2199 && d.month == 12 && d.day == 31 && d.hour == 23 && d.minute == 59

/-! ## Advancing (R147) -/

/-- The day advances, with the carries into month and year. -/
def DateTime.nextDay (d : DateTime) : DateTime :=
  if d.day < monthLength d.year d.month then { d with day := d.day + 1 }
  else if d.month < 12 then { d with day := 1, month := d.month + 1 }
  else { d with day := 1, month := 1, year := d.year + 1 }

/-- The minute advances and the second becomes 0, with the usual carries. -/
def DateTime.nextMinute (d : DateTime) : DateTime :=
  let d := { d with second := 0 }
  if d.minute < 59 then { d with minute := d.minute + 1 }
  else if d.hour < 23 then { d with minute := 0, hour := d.hour + 1 }
  else { d with minute := 0, hour := 0 }.nextDay

/-- The minute advances: one more district minute, and one minute event (R147). -/
def Calendar.advanceMinute (c : Calendar) : Calendar :=
  { c with time := c.time.nextMinute, districtMinute := c.districtMinute + 1, minuteEvents := c.minuteEvents + 1 }

/-- Regulation at a boundary: a counted advance of the minute to 0, 10, 20, 30, 40 or 50 (R149). -/
def Calendar.regulate (c : Calendar) : Calendar :=
  if c.time.minute % 10 = 0 then
    if 0 < c.regulation then { c with sub := c.regulation.toNat }
    else if c.regulation < 0 then { c with hold := c.regulation.natAbs }
    else c
  else c

/-- The second rollover, the sub-second count just wrapped to 0 (R147 to R149). -/
def Calendar.rollover (c : Calendar) : Calendar :=
  if c.time.second < 59 then { c with time := { c.time with second := c.time.second + 1 } }
  else if c.time.lastMinute then c
  else c.advanceMinute.regulate

/-- One step of the timebase: the regulation hold counts down, or the sub-second count advances (R147, R149). -/
def Calendar.tick (c : Calendar) : Calendar :=
  if 0 < c.hold then { c with hold := c.hold - 1 }
  else if c.sub + 1 < Config.secondSteps then { c with sub := c.sub + 1 }
  else { c with sub := 0 }.rollover

/-- The rest of the regulation hold passes (R149). -/
def Calendar.endHold (c : Calendar) : Calendar := { c with hold := 0 }

/-- The load of SET TIME (R154). -/
def Calendar.load (c : Calendar) (d : DateTime) : Calendar :=
  { c with
    state := .known, time := d, sub := 0, hold := 0, districtMinute := d.districtMinute
    minuteEvents := if c.districtMinute < d.districtMinute then c.minuteEvents + 1 else c.minuteEvents }

/-- Whether an align command advances the minute (R156). -/
def Calendar.alignAdvances (c : Calendar) : Bool := 30 ≤ c.time.second && !c.time.lastMinute

/-- The align command (R156). -/
def Calendar.align (c : Calendar) : Calendar :=
  let cleared := { c with time := { c.time with second := 0 }, sub := 0, hold := 0 }
  if c.alignAdvances then cleared.advanceMinute else cleared

/-- A calendar report (R151, R192). While the hold is above 0 the count is reported as 0 (R149). -/
def Calendar.report (c : Calendar) : List Field :=
  [byteField c.state.code] ++ dateFields c.time
  ++ [byteField (dayOfWeek c.districtMinute), pairField (if 0 < c.hold then 0 else c.sub), wordField c.districtMinute,
    regulationField c.regulation]

/-! ## The calendar's own events -/

/-- The calendar counts: in every supply state but UNPOWERED, and not during a cold start, at whose end counting begins
(R147, R159; log entry 20). -/
def State.counting (s : State) : Bool :=
  match s.supply.state with
  | .unpowered => false
  | .starting => s.supply.mark
  | .retaining | .running | .stopping => true

/-- TIMEBASE_STEP (R147). -/
def execTimebaseStep (s : State) : Host.Outcome State Fault Refusal :=
  .next (if s.counting then { s with calendar := s.calendar.tick } else s)

/-- REGULATION_HOLD_END (R149): the remaining steps of the hold pass and the count resumes (log entry 19). -/
def execRegulationHoldEnd (s : State) : Host.Outcome State Fault Refusal :=
  .next (if s.counting then { s with calendar := s.calendar.endHold } else s)

/-! ## Host requests on time (R151 to R158) -/

/-- A response to a time request: result, then for DONE the fields. -/
def timeResponse (r : Request) (result : Result) (fields : List Field) : Response := ⟨kindByte r, result, fields⟩

/-- READ_TIME (R152). -/
def execReadTime (s : State) : Host.Outcome State Fault Refusal :=
  match s.grantedRequest with
  | some .readTime => s.answer (some (s.engine, timeResponse .readTime .done s.calendar.report))
  | _ => .next s

/-- The time lies more than 900 seconds before or after the time held, read to the second (R153). -/
def DateTime.stepTooLarge (new held : DateTime) : Bool :=
  held.seconds + Config.stepSeconds < new.seconds || new.seconds + Config.stepSeconds < held.seconds

/-- The refusal of a SET TIME, if any (R153). While the calendar is UNSET the STEP field is not read; while it is SET a byte
that is no STEP code is BAD FIELD (R192; log entry 11). -/
def Calendar.refuseTime (c : Calendar) (d : DateTime) (step : Nat) : Option Result :=
  if !d.valid then some .badField
  else
    match c.state with
    | .unset => none
    | .known =>
      if (flagOf step).isNone then some .badField
      else if step = 0 && d.stepTooLarge c.time then some .stepTooLarge
      else none

/-- SET_TIME: the checks at the take; an accepted one sends its load and is held until the load has arrived (R151, R153). -/
def execSetTime (s : State) : Host.Outcome State Fault Refusal :=
  match s.grantedRequest with
  | some (.setTime d step) =>
    match s.calendar.refuseTime d step with
    | some refusal => s.answer (some (s.engine, timeResponse (.setTime d step) refusal []))
    | none => .next (s.holdPort (.timeLoad s.calendar d))
  | _ => .next s

/-- ALIGN_MINUTE (R156). -/
def execAlignMinute (s : State) : Host.Outcome State Fault Refusal :=
  match s.grantedRequest with
  | some .alignMinute =>
    match s.calendar.state with
    | .unset => s.answer (some (s.engine, timeResponse .alignMinute .timeUnset []))
    | .known => .next (s.holdPort .align)
  | _ => .next s

/-- SET_REGULATION (R158). -/
def execSetRegulation (s : State) : Host.Outcome State Fault Refusal :=
  match s.grantedRequest with
  | some (.setRegulation value) =>
    if (regulationOf value).natAbs ≤ Config.regulationMax then .next (s.holdPort (.regulation (regulationOf value)))
    else s.answer (some (s.engine, timeResponse (.setRegulation value) .badField []))
  | _ => .next s

/-! ## The arrival of the engine's commands; the request then completes -/

/-- The codes of the three time requests whose commands travel (R192). -/
def setTimeKind : Byte := 0x51
def alignMinuteKind : Byte := 0x52
def setRegulationKind : Byte := 0x53

/-- The state and time that a SET TIME read at its take, as its response carries them: the state, and the date and time to
the second (R154; log entry 10). -/
def Calendar.takenFields (c : Calendar) : List Field := byteField c.state.code :: dateFields c.time

/-- TIME_LOAD (R154): the response carries the state and time read at the take and a report made just after the load. -/
def execTimeLoad (s : State) : Host.Outcome State Fault Refusal :=
  match s.hold with
  | some (.timeLoad taken d) =>
    let c := s.calendar.load d
    .next ({ s with calendar := c }.complete ⟨setTimeKind, .done, taken.takenFields ++ c.report⟩)
  | _ => .next s

/-- ALIGN_COMMAND (R156): the response carries the second held on arrival, whether the minute advanced, and the report. -/
def execAlignCommand (s : State) : Host.Outcome State Fault Refusal :=
  match s.hold with
  | some .align =>
    let c := s.calendar.align
    .next ({ s with calendar := c }.complete
      ⟨alignMinuteKind, .done, [byteField s.calendar.time.second, flagField s.calendar.alignAdvances] ++ c.report⟩)
  | _ => .next s

/-- REGULATION_WRITE (R158): the response carries the value held before and the report. -/
def execRegulationWrite (s : State) : Host.Outcome State Fault Refusal :=
  match s.hold with
  | some (.regulation value) =>
    let c := { s.calendar with regulation := value }
    .next ({ s with calendar := c }.complete
      ⟨setRegulationKind, .done, regulationField s.calendar.regulation :: c.report⟩)
  | _ => .next s

end Sys2Proof.Machine
end

