-- ==== Sys2Proof/Machine/KitRequests.lean ====
section
/-! DEFINITION. The seven host requests on records (chapter 1): ENROL KIT, LOOKUP KIT, SUSPEND KIT, RESUME KIT,
SET KIT KEY, MOVE PLAN, RETIRE KIT. -/

namespace Sys2Proof.Machine

/-- Changes a plan's reference count (R40). -/
def Engine.countPlan (e : Engine) (plan : Nat) (f : Nat → Nat) : Engine :=
  match e.plans.get plan with
  | some p => { e with plans := e.plans.put plan { p with refCount := f p.refCount } }
  | none => e

/-! ## ENROL KIT (R13, R14) -/

/-- The record written at enrolment (R14). -/
def Record.enrolled (kit plan : Nat) (key : Word32) (base : Nat) : Record :=
  { kit := kit, state := .enrolled, reason := none, plan := plan, key := key, paid := none, residue := 0, confirmed := 0,
    pending := [], offer := ⟨base, none, none⟩, acked := base, reminded := false, lastCheckIn := none, energy := 0,
    kitFlags := ⟨false, false⟩, badChecks := 0, notices := .clear, due := none }

/-- ENROL KIT: the checks of R13 in order, then R14. -/
def Engine.enrolKit (e : Engine) (kit plan : Nat) (key : Word32) (base : Nat) : Worked :=
  if !(kitInRange kit && planInRange plan && base < Config.max32) then (e, .badField, [])
  else if (e.plans.get plan).isNone then (e, .unknownPlan, [])
  else if (e.directory.get kit).isSome then (e, .duplicateKit, [])
  else
    let slot := e.accounts.lowestFree 0
    if Config.slots ≤ slot then (e, .tableFull, [])
    else
      ({ e.countPlan plan (· + 1) with
          accounts := e.accounts.put slot (.enrolled kit plan key base)
          directory := e.directory.put kit slot }, .done, [pairField slot])

/-- ENROL_KIT. -/
def execEnrolKit (s : State) : Host.Outcome State Fault Refusal :=
  match s.grantedRequest with
  | some (.enrolKit kit plan key base) =>
    let (e, result, fields) := s.engine.enrolKit kit plan (BitVec.ofNat 32 key) base
    s.answer (some (e, kitResponse (.enrolKit kit plan key base) kit result fields))
  | _ => .next s

/-! ## LOOKUP KIT (R15) -/

/-- A pending entry as LOOKUP KIT reports it: every field except the entry remainder (R15, R63). -/
def Entry.fields (e : Entry) : List Field :=
  [wordField e.reference, byteField e.agent, wordField e.amount, wordField e.minutes, wordField e.taken,
    wordField e.deadline]

/-- The report of LOOKUP KIT, in the order of R15. -/
def Work.lookupFields (w : Work) (t : Nat) : List Field :=
  let r := w.record
  [pairField w.slot, stateField (some r.state), reasonField r.reason, byteField r.plan, minuteField r.paid,
    residueField r.residue, moneyField r.confirmed, byteField r.pending.length]
  ++ r.pending.flatMap Entry.fields
  ++ [wordField r.offer.number, byteField ((r.offer.kind.map GrantKind.code).getD 0), minuteField r.offer.runThrough,
    wordField r.acked, flagField r.reminded, minuteField (r.lastCheckIn.map Prod.fst),
    lineField (r.lastCheckIn.map Prod.snd), wordField r.energy, byteField r.kitFlags.bits, byteField r.badChecks,
    pairField r.notices.bits]
  ++ dueFields r.due
  ++ [wordField r.overhang, flagField (r.ownershipPending w.plan), byteField (r.progress w.plan),
    byteField (r.kitDays t).kitByte]

/-- LOOKUP_KIT. -/
def execLookupKit (s : State) : Host.Outcome State Fault Refusal :=
  match s.grantedRequest with
  | some (.lookupKit kit) =>
    s.answer (s.engine.onKit (.lookupKit kit) kit true none s.instant fun w => w.done (w.lookupFields s.instant))
  | _ => .next s

/-! ## SUSPEND KIT (R16) -/

/-- SUSPEND KIT on a record that is current. -/
def Work.suspend (w : Work) (reason : Nat) : Worked :=
  if w.record.state = .suspended || w.record.state = .owned then w.refuse .wrongState
  else
    let before := w.record.state
    let w := w.unkey
    let w := { w with record := { w.record with state := .suspended, reason := some reason } }
    w.done [stateField (some before)]

/-- SUSPEND_KIT. -/
def execSuspendKit (s : State) : Host.Outcome State Fault Refusal :=
  match s.grantedRequest with
  | some (.suspendKit kit reason) =>
    s.answer (s.engine.onKit (.suspendKit kit reason) kit true none s.instant fun w => w.suspend reason)
  | _ => .next s

/-! ## RESUME KIT (R17) -/

/-- RESUME KIT on a record that is current. -/
def Work.resume (w : Work) (t : Nat) : Worked :=
  if w.record.state = .suspended then
    let w := { w with record := { w.record with
      reason := none, state := creditState w.record.paid w.plan.window t } }
    let w := (w.remind t).rekey
    w.done [stateField (some w.record.state)]
  else w.refuse .wrongState

/-- RESUME_KIT. -/
def execResumeKit (s : State) : Host.Outcome State Fault Refusal :=
  match s.grantedRequest with
  | some (.resumeKit kit) =>
    s.answer (s.engine.onKit (.resumeKit kit) kit true none s.instant fun w => w.resume s.instant)
  | _ => .next s

/-! ## SET KIT KEY (R18) -/

/-- SET KIT KEY on a record that is current. -/
def Work.setKey (w : Work) (key : Word32) : Worked :=
  { w with record := { w.record with key := key, badChecks := 0 } }.done []

/-- SET_KIT_KEY. -/
def execSetKitKey (s : State) : Host.Outcome State Fault Refusal :=
  match s.grantedRequest with
  | some (.setKitKey kit key) =>
    s.answer (s.engine.onKit (.setKitKey kit key) kit true none s.instant fun w => w.setKey (BitVec.ofNat 32 key))
  | _ => .next s

/-! ## MOVE PLAN (R19, R20) -/

/-- Steps 3 to 5 of R20 for a record whose plan is already the new one. -/
def Work.settleOnPlan (w : Work) (t : Nat) : Work :=
  if 0 < w.plan.price && w.plan.price ≤ w.record.confirmed then w.becomeOwned
  else if w.record.state = .suspended then w
  else
    let before := w.record.state
    let w := w.recompute t
    ((w.raiseIf (before == .lapsed && w.record.state == .defaulted) .defaulted).remind t).rekey

/-- MOVE PLAN on a record that is current: the last two checks of R19, then R20. A move to the plan already held is answered
DONE with the state, as a move to another is; R19 names no field for it (log entry 33). -/
def Work.move (w : Work) (plan : Nat) (new : Plan) (t : Nat) : Worked :=
  if w.record.state = .owned then w.refuse .wrongState
  else if !w.record.pending.isEmpty then w.refuse .entriesPending
  else if plan = w.record.plan then w.done [stateField (some w.record.state)]
  else
    let e := (w.engine.countPlan w.record.plan (· - 1)).countPlan plan (· + 1)
    let w : Work := { engine := e, slot := w.slot, plan := new, record := { w.record with plan := plan } }
    let w := w.settleOnPlan t
    w.done [stateField (some w.record.state)]

/-- MOVE_PLAN. -/
def execMovePlan (s : State) : Host.Outcome State Fault Refusal :=
  match s.grantedRequest with
  | some (.movePlan kit plan) =>
    match s.engine.plans.get plan with
    | none =>
      s.answer (s.engine.onKit (.movePlan kit plan) kit (planInRange plan) (some .unknownPlan) s.instant fun w =>
        w.refuse .unknownPlan)
    | some new =>
      s.answer (s.engine.onKit (.movePlan kit plan) kit (planInRange plan) none s.instant fun w =>
        w.move plan new s.instant)
  | _ => .next s

/-! ## RETIRE KIT (R21, R22) -/

/-- One pending entry reversed against its agent by FORCE (R22): the record is not adjusted. -/
def Work.forceReverse (w : Work) (e : Entry) : Work :=
  let w := w.dropEntry e
  { w with engine := w.engine.changeAgent e.agent (fun a => a.unsettle e.amount) }

/-- Steps 2 to 5 of R21: the record leaves the indexes and lists, the directory, its plan's count and its slot. -/
def Work.remove (w : Work) : Engine :=
  let e := w.engine.countPlan w.record.plan (· - 1)
  { e with
    accounts := e.accounts.erase w.slot
    directory := e.directory.erase w.record.kit
    expiry := dueRemove w.record.kit e.expiry
    notices := e.notices.filter (fun k => !(k == w.record.kit)) }

/-- RETIRE KIT on a record that is current. -/
def Work.retire (w : Work) (force : Bool) : Worked :=
  if !force && !w.record.pending.isEmpty then w.refuse .entriesPending
  else
    let report := [pairField w.record.notices.bits, wordField w.record.offer.number,
      byteField w.record.pending.length, moneyField (amountSum w.record.pending)]
    ((w.record.pending.foldl Work.forceReverse w).remove, .done, report)

/-- RETIRE_KIT. -/
def execRetireKit (s : State) : Host.Outcome State Fault Refusal :=
  match s.grantedRequest with
  | some (.retireKit kit force) =>
    s.answer (s.engine.onKit (.retireKit kit force) kit (flagOf force).isSome none s.instant fun w =>
      w.retire (force = 1))
  | _ => .next s

end Sys2Proof.Machine
end

