-- ==== Sys2Proof/Machine/Lines.lean ====
section
/-! DEFINITION. The line units: line time, the receiver and its assembler, the transmitter and its output, the arrival of
the engine's commands and deliveries, and the two requests on lines (chapter 9). -/

namespace Sys2Proof.Machine

/-! ## Line time (R160; log entry 8): units of 1/76800 s -/

/-- Units in one bit at a rate. -/
def Rate.bitUnits : Rate → Nat
  | .r1200 => Config.unitsPerBitAt1200
  | .r2400 => Config.unitsPerBitAt1200 / 2
  | .r4800 => Config.unitsPerBitAt1200 / 4
  | .r9600 => Config.unitsPerBitAt1200 / 8
  | .r19200 => Config.unitsPerBitAt1200 / 16

/-- Parity bits of a character. -/
def Parity.bitCount : Parity → Nat
  | .none => 0
  | .even => 1
  | .odd => 1

/-- Bits of a transmitted character: start, eight data bits, parity if any, stop bits (R160). -/
def Settings.charBits (s : Settings) : Nat := 1 + 8 + s.parity.bitCount + s.stopBits.count

/-- The character time in line time units (R160). -/
def Settings.charUnits (s : Settings) : Nat := s.charBits * s.rate.bitUnits

/-- Units from the fall of the start bit of a received character to the middle of its first stop bit, at which that bit and
with it the character is taken (R163; log entry 35). -/
def Settings.receiveUnits (s : Settings) : Nat := (1 + 8 + s.parity.bitCount) * s.rate.bitUnits + s.rate.bitUnits / 2

/-- The gap limit: 4 character times from the end of the first stop bit (R167), which comes half a bit after the middle at
which the character was taken. -/
def Settings.gapLimit (s : Settings) : Nat := s.rate.bitUnits / 2 + 4 * s.charUnits

/-- The quiet time before a HALF duplex reply: 2 character times (R170). -/
def Settings.quietNeeded (s : Settings) : Nat := 2 * s.charUnits

/-! ## Characters (R163, R164) -/

/-- The ones of a byte are odd in number. -/
def oddOnes (b : Byte) : Bool := (byteBits b).foldl (fun odd bit => odd ^^ bit) false

/-- The parity bit that a parity setting gives a byte; `none` when it has none (R163, R164). -/
def parityBitFor (p : Parity) (b : Byte) : Option Bool :=
  match p with
  | .none => none
  | .even => some (oddOnes b)
  | .odd => some (!oddOnes b)

/-- The received parity bit disagrees (R163). -/
def parityFault (p : Parity) (b : Byte) (received : Bool) : Bool :=
  match parityBitFor p b with
  | none => false
  | some bit => bit != received

/-- The bits a character is sent as: a zero start bit, the data least significant first, the parity bit, one or two stop
bits of one (R164). -/
def charLevels (s : Settings) (b : Byte) : List Bool :=
  [false] ++ [0, 1, 2, 3, 4, 5, 6, 7].map b.getLsbD ++ (parityBitFor s.parity b).toList
    ++ List.replicate s.stopBits.count true

/-- The output of a line (R160, R164, R174): released while the part is not RUNNING or the role is OFF, the bit being sent
while the transmitter sends (characters back to back), and otherwise the idle level. -/
def Line.output (l : Line) (running : Bool) : Level :=
  if !running || l.settings.role == .off then .highImpedance
  else
    match l.transmitter with
    | .idle => .one
    | .sending reply sent =>
      Level.ofBit ((reply.bytes.flatMap (charLevels l.settings)).getD (sent / l.settings.rate.bitUnits) true)

/-! ## Conditions of the transmitter (R169) -/

/-- Transmit end: holding place and shift stage empty and no reply being sent. -/
def Line.transmitEnd (l : Line) : Bool := l.transmitter == .idle

/-- Transmit empty: the holding place holds no character, which while sending is so from the moment the last character
enters the shift stage. -/
def Line.transmitEmpty (l : Line) : Bool :=
  match l.transmitter with
  | .idle => true
  | .sending reply sent => (reply.bytes.length - 1) * l.settings.charUnits ≤ sent

/-- Line time that a whole reply takes: its characters back to back (R164, R169). -/
def Line.replyUnits (l : Line) (reply : Reply) : Nat := reply.bytes.length * l.settings.charUnits

/-! ## Time passing at a line -/

/-- The receiver takes characters: the role is not OFF, and no HALF duplex reply is being sent (R160, R170). -/
def Line.listening (l : Line) : Bool :=
  l.settings.role != .off && !(l.settings.duplex == .half && l.transmitter != .idle)

/-- Line time passes: quiet time runs while the assembler hunts (R170), silence and the transmission go on, and the receiver
looks for a start bit while it is not disregarded. -/
def Line.advance (l : Line) (elapsed : Nat) : Line :=
  { l with
    quiet := if l.assembler = .hunt then l.quiet + elapsed else l.quiet
    silence := l.silence + elapsed
    looking := if l.listening then l.looking + elapsed else 0
    transmitter :=
      match l.transmitter with
      | .idle => .idle
      | .sending reply sent => .sending reply (sent + elapsed) }

/-! ## The assembler (R165 to R168) -/

/-- A message is in assembly: LENGTH or BODY (R167). -/
def Assembler.assembling : Assembler → Bool
  | .hunt => false
  | .length => true
  | .body _ _ => true
  | .skip _ => false

/-- A complete message is offered to the inbound queue: added, or dropped with MESSAGE OVERRUN (R168). -/
def Line.offer (l : Line) (bytes : List Byte) : Line :=
  match messageOf bytes with
  | none => l
  | some m =>
    if l.inbound.length < Config.lineQueue then { l with inbound := l.inbound ++ [m] }
    else { l with flags := { l.flags with messageOverrun := true } }

/-- The three checks at the kind byte, the first that fails deciding (R166). -/
def Line.kindByte (l : Line) (length : Nat) (b : Byte) : Line :=
  match kindLength b.toNat with
  | none => { l with assembler := .hunt, flags := { l.flags with unknownKind := true } }
  | some n =>
    if length ≠ n then { l with assembler := .hunt, flags := { l.flags with badLength := true } }
    else if takenIn l.settings.role b.toNat then { l with assembler := .body length [b] }
    else { l with assembler := .skip (length - 1), flags := { l.flags with wrongRole := true } }

/-- The assembler handles a good character (R165). -/
def Line.assemble (l : Line) (b : Byte) : Line :=
  match l.assembler with
  | .hunt => if b = lineMarker then { l with assembler := .length } else l
  | .length => { l with assembler := .body b.toNat [] }
  | .body length taken =>
    if taken.isEmpty then l.kindByte length b
    else if taken.length + 1 < length then { l with assembler := .body length (taken ++ [b]) }
    else { l with assembler := .hunt }.offer (taken ++ [b])
  | .skip left => if left ≤ 1 then { l with assembler := .hunt } else { l with assembler := .skip (left - 1) }

/-- The silence limit has passed: a message in assembly is discarded with GAP, a skip ends without a flag (R167). -/
def Line.gap (l : Line) : Line :=
  if l.assembler.assembling then { l with assembler := .hunt, flags := { l.flags with gap := true } }
  else { l with assembler := .hunt }

/-- The start bit of a character under way that the receiver has found: it fell while the receiver looked for one (R163,
R170). -/
def Line.startBit (l : Line) (start : Option Nat) : Option Nat :=
  start.filter (fun since => l.listening && since ≤ l.looking)

/-- The quiet time begins anew at the start bit of a character under way, and runs on from there while the assembler hunts
(R170). -/
def Line.hears (l : Line) (start : Option Nat) : Line :=
  match l.startBit start with
  | none => l
  | some since => { l with quiet := if l.assembler = .hunt then min l.quiet since else 0 }

/-- A character in fault: its flags, and the discards of R163. -/
def Line.faultyCharacter (l : Line) (parity framing : Bool) : Line :=
  { l with
    assembler := .hunt
    flags := { l.flags with parity := l.flags.parity || parity, framing := l.flags.framing || framing } }

/-- A character whose start bit came after the silence limit begins in HUNT (R167). -/
def Line.beforeStart (l : Line) : Line :=
  if l.assembler ≠ .hunt && l.settings.gapLimit < l.silence - l.settings.receiveUnits then l.gap else l

/-- The start bit of a character taken now fell while the receiver looked for one: not before it left OFF or its settings
changed, nor inside a HALF duplex reply, nor inside the character before (R161, R163, R170; log entry 9). -/
def Line.foundStart (l : Line) : Bool := l.listening && l.settings.receiveUnits ≤ l.looking

/-- The receiver takes the first stop bit of a character, and with it the character, line time having passed (R163, R165,
R167, R170; log entry 35). It looks for the next start bit at once. The quiet time begins anew at the character's start bit,
runs from there where the assembler hunts, and stands where it leaves HUNT (log entry 9). -/
def Line.character (l : Line) (b : Byte) (parityBit stopBit : Bool) : Line :=
  if !l.foundStart then l
  else
    let l := l.beforeStart
    let fault := parityFault l.settings.parity b parityBit
    let after :=
      if fault || !stopBit then l.faultyCharacter fault (!stopBit)
      else { l.assemble b with silence := 0 }
    { after with
      looking := 0
      quiet := if l.assembler = .hunt then l.settings.receiveUnits else 0 }

/-- The silence behind the latest good character, from the moment it was taken: up to the start bit of a character under way,
and else until now (R167). -/
def Line.silenceBefore (l : Line) (start : Option Nat) : Nat := l.silence - (l.startBit start).getD 0

/-- Silence beyond 4 character times without a start bit (R167). From the moment of the limit the assembler hunts, so the quiet
time runs on from what it had come to, and begins anew at a start bit that came after the limit (R170). -/
def Line.silent (l : Line) (start : Option Nat) : Line :=
  if l.listening && l.assembler ≠ .hunt && l.settings.gapLimit < l.silenceBefore start then
    { l.gap with quiet := l.quiet + (l.silence - l.settings.gapLimit) }.hears start
  else l.hears start

/-! ## The transmitter (R169, R170) -/

/-- A reply may begin: at once under FULL duplex, after 2 character times of quiet under HALF (R170). -/
def Line.mayBegin (l : Line) : Bool :=
  l.transmitter == .idle && (l.settings.duplex == .full || l.settings.quietNeeded ≤ l.quiet)

/-- A reply leaves the head of the outbound queue and its transmission begins, when R170 allows; a character under way has
let the quiet time begin anew. -/
def Line.begin (l : Line) (start : Option Nat) : Line :=
  let l := l.hears start
  match l.outbound with
  | [] => l
  | reply :: rest => if l.mayBegin then { l with outbound := rest, transmitter := .sending reply 0 } else l

/-- The last stop bit of a reply has been sent: the transmitter is idle, and the quiet time begins anew (R169, R170). -/
def Line.finish (l : Line) : Line :=
  match l.transmitter with
  | .idle => l
  | .sending reply sent => if l.replyUnits reply ≤ sent then { l with transmitter := .idle, quiet := 0 } else l

/-! ## Commands and deliveries from the engine (R161, R162, R173) -/

/-- A settings command (R161): nothing when every setting equals the one held, otherwise the change with its discards. -/
def Line.settle (l : Line) (new : Settings) : Line :=
  if l.settings = new then l
  else
    { l with
      settings := new, transmitter := .idle, inbound := [], outbound := [], assembler := .hunt, flags := .clear,
      lastUnknown := none, quiet := 0, silence := 0, looking := 0
      take := match l.take with
        | .none => .none
        | .current => .stale
        | .stale => .stale }

/-- The report of a read command, in the order of R173. -/
def Line.report (l : Line) : List Field :=
  l.settings.fields
  ++ [byteField l.inbound.length, byteField l.outbound.length,
    byteField (bitsNat [l.transmitter != .idle, l.transmitEmpty, l.transmitEnd]), byteField l.assembler.code,
    byteField l.flags.bits]
  ++ senderFields l.lastUnknown

/-- The mark of a message that could not be attributed (R172). -/
def Line.mark (l : Line) (sender : Sender) : Line :=
  { l with lastUnknown := some sender, flags := { l.flags with unknownSender := true } }

/-- What the engine delivers reaches the line: with the marker CURRENT it is queued or written, otherwise discarded, and
the marker returns to NONE (R162). -/
def Line.receive (l : Line) (d : Delivery) : Line :=
  let l' :=
    if l.take = .current then
      match d with
      | .reply r => { l with outbound := l.outbound ++ [r] }
      | .mark sender => l.mark sender
    else l
  { l' with take := .none }

/-- What has arrived leaves the way from the engine to the line. -/
def Line.arrived (l : Line) : Line := { l with inFlight := l.inFlight.tail }

/-- The line as it stops (R174): queues, assembly and transmission are lost. -/
def Line.stopped (l : Line) : Line :=
  { l with inbound := [], outbound := [], assembler := .hunt, transmitter := .idle }

/-! ## The steps at a line -/

/-- Changes one line. -/
def State.onLine (s : State) (n : LineNo) (f : Line → Line) : State :=
  { s with lines := s.lines.put n (f (s.lines.get n)) }

/-- The part is RUNNING. -/
def State.running (s : State) : Bool := s.supply.state == .running

/-- RECEIVE_CHARACTER (R163): only while RUNNING. -/
def execReceiveCharacter (n : LineNo) (elapsed : Nat) (data : Byte) (parityBit stopBit : Bool) (s : State) :
    Host.Outcome State Fault Refusal :=
  .next (if s.running then s.onLine n (fun l => (l.advance elapsed).character data parityBit stopBit) else s)

/-- GAP_TIMEOUT (R167). -/
def execGapTimeout (n : LineNo) (time : LineTime) (s : State) : Host.Outcome State Fault Refusal :=
  .next (if s.running then s.onLine n (fun l => (l.advance time.elapsed).silent time.start) else s)

/-- REPLY_BEGIN (R169, R170). -/
def execReplyBegin (n : LineNo) (time : LineTime) (s : State) : Host.Outcome State Fault Refusal :=
  .next (if s.running then s.onLine n (fun l => (l.advance time.elapsed).begin time.start) else s)

/-- REPLY_END (R169). -/
def execReplyEnd (n : LineNo) (elapsed : Nat) (s : State) : Host.Outcome State Fault Refusal :=
  .next (if s.running then s.onLine n (fun l => (l.advance elapsed).finish) else s)

/-- SETTINGS_COMMAND (R161): it arrives when it is the first thing on its way to the line. -/
def execSettingsCommand (n : LineNo) (elapsed : Nat) (s : State) : Host.Outcome State Fault Refusal :=
  match (s.lines.get n).inFlight with
  | .settings new :: _ => .next (s.onLine n (fun l => ((l.advance elapsed).settle new).arrived))
  | _ => .next s

/-- The code of READ LINE (R192). -/
def readLineKind : Byte := 0x61

/-- READ_COMMAND (R173): the line reports and clears its flags, and the engine completes READ LINE with the report. A
stopped line reports as it stands (R174). -/
def execReadCommand (n : LineNo) (elapsed : Nat) (s : State) : Host.Outcome State Fault Refusal :=
  match (s.lines.get n).inFlight with
  | .read :: _ =>
    let l := (s.lines.get n).advance elapsed
    .next ((s.onLine n (fun _ => { l with flags := .clear }.arrived)).complete ⟨readLineKind, .done, l.report⟩)
  | _ => .next s

/-- LINE_DELIVERY (R162): the engine's held message completes. A line that has stopped discards what is delivered (R174),
and so does one about to restart (R33; log entry 13). -/
def execLineDelivery (n : LineNo) (s : State) : Host.Outcome State Fault Refusal :=
  match (s.lines.get n).inFlight with
  | .delivery d :: _ =>
    let keep := s.running && !s.supply.resetWaiting
    .next { s.onLine n (fun l => (if keep then l.receive d else { l with take := .none }).arrived) with hold := none }
  | _ => .next s

/-! ## Host requests on lines (R161, R173) -/

/-- The settings five codes spell, if every code is in the type table (R160, R192). -/
def settingsOf (role rate parity stopBits duplex : Nat) : Option Settings :=
  match roleOf role, rateOf rate, parityOf parity, stopBitsOf stopBits, duplexOf duplex with
  | some role, some rate, some parity, some stopBits, some duplex => some ⟨role, rate, parity, stopBits, duplex⟩
  | _, _, _, _, _ => none

/-- A response to a request on a line: result, then for DONE the fields. -/
def lineResponse (r : Request) (result : Result) (fields : List Field) : Response := ⟨kindByte r, result, fields⟩

/-- SET_LINE (R161): the command is sent and the request completes. -/
def execSetLine (s : State) : Host.Outcome State Fault Refusal :=
  match s.grantedRequest with
  | some (.setLine line role rate parity stopBits duplex) =>
    let r := Request.setLine line role rate parity stopBits duplex
    match lineOfIndex line, settingsOf role rate parity stopBits duplex with
    | some n, some new =>
      (s.send n (.settings new)).answer (some (s.engine, lineResponse r .done new.fields))
    | _, _ => s.answer (some (s.engine, lineResponse r .badField []))
  | _ => .next s

/-- READ_LINE (R173): the command is sent, and the request is held until the line has reported. -/
def execReadLine (s : State) : Host.Outcome State Fault Refusal :=
  match s.grantedRequest with
  | some (.readLine line) =>
    match lineOfIndex line with
    | some n => .next ((s.send n .read).holdPort (.lineReport n))
    | none => s.answer (some (s.engine, lineResponse (.readLine line) .badField []))
  | _ => .next s

end Sys2Proof.Machine
end

