-- ==== Sys2Proof/Machine/Messages.lean ====
section
/-! DEFINITION. The line messages the engine takes: CHECK-IN and its grant (chapter 7), TOP-UP (chapter 4), STATUS
(chapter 7). -/

namespace Sys2Proof.Machine

/-- What the work on a message leaves: the tables, and what is to be delivered to the line; `none` in its place when the
message is answered with silence and leaves no mark on the line (R162). The whole is `none` when the tables were
broken. -/
abbrev MessageWork := Option (Engine × Option Delivery)

/-- Completes the engine's part of a message taken from line `n`: with something to deliver, the delivery is on its way
and the engine holds the message until it has arrived; with nothing, the message completes here and the marker returns
to NONE (R27, R31, R162). -/
def State.handle (s : State) (n : LineNo) (work : MessageWork) : Host.Outcome State Fault Refusal :=
  match work with
  | none => .fault .brokenTables
  | some (e, none) =>
    let s := s.takeLine n
    .next { s with engine := e, lines := s.lines.put n { s.lines.get n with take := .none } }
  | some (e, some d) => .next { (s.takeLine n).send n (.delivery d) with engine := e, hold := some (.message n) }

/-! ## The grant of a CHECK-IN (R130 to R139) -/

/-- What a CHECK-IN's reply is chosen to be before it is decided whether to issue or repeat (R133 to R135). -/
inductive Desired where
  /-- The offer of a kind, with its run-through for RUN. -/
  | offer (kind : GrantKind) (through : Option Nat)
  /-- A claw-back shrink: RUN through the given minute, issued in any case. -/
  | shrink (through : Nat)
  /-- The standing offer, repeated. -/
  | standing
  deriving DecidableEq, Repr

/-- The smaller of paid-through and `t` plus the lease (R134). -/
def Record.desiredThrough (r : Record) (p : Plan) (t : Nat) : Nat := min (r.paid.getD 0) (t + p.lease)

/-- The grant desired for a record that is current, the calendar SET (R133 to R135). -/
def Record.desired (r : Record) (p : Plan) (t : Nat) : Desired :=
  match r.state with
  | .enrolled | .lapsed | .defaulted | .suspended => .offer .lock none
  | .owned => .offer .owned none
  | .active =>
    if 0 < r.overhang then
      if p.clawBack then .shrink (r.desiredThrough p t) else .standing
    else .offer .run (some (r.desiredThrough p t))

/-- Whether an offer of a kind and run-through is issued anew (R136): the kind differs, or the RUN reaches the renew step
beyond the offered one. -/
def Offer.callsFor (o : Offer) (kind : GrantKind) (through : Option Nat) (renew : Nat) : Bool :=
  o.kind != some kind ||
    match kind, through, o.runThrough with
    | .run, some new, some old => old + renew ≤ new
    | _, _, _ => false

/-- The offer that stands after a CHECK-IN is answered: a new one numbered one above, or the standing one (R136, R137). -/
def Offer.after (o : Offer) (d : Desired) (renew : Nat) : Offer :=
  if Config.max32 ≤ o.number then o
  else
    match d with
    | .offer kind through => if o.callsFor kind through renew then ⟨o.number + 1, some kind, through⟩ else o
    | .shrink through => ⟨o.number + 1, some .run, some through⟩
    | .standing => o

/-- The acknowledged number after a good CHECK-IN holding `held` (R130). -/
def ackedAfter (acked offered held : Nat) : Nat :=
  if held = offered then offered
  else if held < offered && acked < held then held
  else acked

/-- The kind of a reply that sends an offer; a record with no offered kind is sent LOCK (R131, R139; log entry 27). -/
def Offer.replyKind (o : Offer) : ReplyKind :=
  match o.kind with
  | some .run => .run
  | some .lock => .lock
  | some .owned => .owned
  | none => .lock

/-- The run minutes of a reply that sends an offer: those of RUN, 0 otherwise (R61, R139). -/
def Offer.runMinutes (o : Offer) (t : Nat) : Nat :=
  match o.kind, o.runThrough with
  | some .run, some through => Sys2Proof.Machine.runMinutes through t
  | _, _ => 0

/-- The GRANT REPLY that sends the record's offer at `t` (R139). -/
def Record.grantReply (r : Record) (t : Nat) : GrantReply :=
  { kit := r.kit, number := r.offer.number, kind := r.offer.replyKind, runMinutes := r.offer.runMinutes t,
    days := r.kitDays t }

/-- The GRANT REPLY of an UNSET calendar (R132). -/
def Record.holdReply (r : Record) (t : Nat) : GrantReply :=
  { kit := r.kit, number := r.offer.number, kind := .hold, runMinutes := 0, days := r.kitDays t }

/-- Records the kit's report on a record that is current (R129): the bad check count is already 0. -/
def Work.recordReport (w : Work) (m : CheckInMsg) (n : LineNo) (t : Nat) : Work :=
  let flags := kitFlagsOf m.flags
  { w with record := { w.record with
      lastCheckIn := some (t, n)
      energy := min (w.record.energy + m.energy) Config.max32
      kitFlags := flags } }.raiseIf flags.tamper .tamper

/-- Compares the held number (R130), and raises GRANT MISMATCH for one above the offered number (R131). -/
def Work.compareHeld (w : Work) (held : Nat) : Work :=
  { w with record := { w.record with acked := ackedAfter w.record.acked w.record.offer.number held } }.raiseIf
    (w.record.offer.number < held) .grantMismatch

/-- The offer decided for the record: kept while the calendar is UNSET or the held number is above the offered one,
otherwise issued anew or repeated (R131, R132, R136). -/
def Work.offerAfter (w : Work) (calendar : CalendarState) (held t : Nat) : Offer :=
  if calendar = .unset || w.record.offer.number < held then w.record.offer
  else w.record.offer.after (w.record.desired w.plan t) w.plan.renew

/-- A CHECK-IN whose keyed check failed (R128): counted on the record, which is not brought current. -/
def Work.badCheck (w : Work) : Work :=
  { w with record := { w.record with badChecks := min (w.record.badChecks + 1) Config.badCheckLimit } }.raiseIf
    (w.record.badChecks + 1 == Config.badCheckLimit) .checkFault

/-- A CHECK-IN whose keyed check matched: steps 3 to 7 of R126. -/
def Work.goodCheck (w : Work) (m : CheckInMsg) (n : LineNo) (calendar : CalendarState) (t : Nat) : Work × GrantReply :=
  let w := { w with record := { w.record with badChecks := 0 } }.current t
  let w := (w.recordReport m n t).compareHeld m.held
  let offer := w.offerAfter calendar m.held t
  let w := { w with record := { w.record with offer := offer } }
  (w, if calendar = .unset then w.record.holdReply t else w.record.grantReply t)

/-- CHECK-IN on the tables (R126 to R139). -/
def Engine.checkIn (e : Engine) (n : LineNo) (m : CheckInMsg) (calendar : CalendarState) (t : Nat) : MessageWork :=
  match e.find m.kit with
  | .unknown => some (e, some (.mark (.kit m.kit)))
  | .broken => none
  | .found w =>
    if keyedCheck w.record.key m.covered = m.check then
      let (w', reply) := w.goodCheck m n calendar t
      some (w'.commit, some (.reply ((ReplyBody.grant reply).sealed w'.record.key)))
    else some (w.badCheck.commit, none)

/-- CHECK_IN. -/
def execCheckIn (s : State) : Host.Outcome State Fault Refusal :=
  match s.grantedMessage with
  | some (n, .checkIn m) => s.handle n (s.engine.checkIn n m s.calendar.state s.instant)
  | _ => .next s

/-! ## Attribution to an agent (R71, R143) -/

/-- The agent a message is attributed to: its number is 1 to 64, its slot is not CLOSED, and the keyed check computed with
its key matches. -/
def Engine.attribute (e : Engine) (number : Nat) (covered : List Byte) (check : Word32) : Option Agent :=
  if agentInRange number then
    match e.agents.get number with
    | some a => if keyedCheck a.key covered = check then some a else none
    | none => none
  else none

/-! ## TOP-UP (R71 to R74) -/

/-- No days to report: 0 with MORE clear (R74, R144). -/
def Days.zero : Days := ⟨0, false⟩

/-- A refused TOP-UP ANSWER before the record is current (R74, second column). -/
def TopUpMsg.refused (m : TopUpMsg) (result : Result) : TopUpAnswer := ⟨m.reference, result, 0, 0, 0, .zero⟩

/-- A refused TOP-UP ANSWER with the record current (R74, third column). -/
def Work.topUpRefused (w : Work) (m : TopUpMsg) (result : Result) (t : Nat) : Work × TopUpAnswer :=
  (w, ⟨m.reference, result, 0, 0, 0, w.record.agentDays t⟩)

/-- The answer to a duplicate reference: what the first one credited, when it was made by the same agent (R74). -/
def Work.duplicate (w : Work) (m : TopUpMsg) (held : Entry) (t : Nat) : Work × TopUpAnswer :=
  if held.agent = m.agent then
    (w, ⟨m.reference, .duplicateReference, held.minutes, held.amount, 0, w.record.agentDays t⟩)
  else w.topUpRefused m .duplicateReference t

/-- The outstanding rises by the accepted amount, and the watermark is set above three quarters of the limit (R73 step 4). -/
def Agent.charge (a : Agent) (amount : Nat) : Agent :=
  let outstanding := a.outstanding + amount
  { a with outstanding := outstanding, watermark := a.watermark || 3 * a.limit < 4 * outstanding }

/-- The pending entry a TOP-UP makes (R63, R73 step 1). -/
def TopUpMsg.entry (m : TopUpMsg) (a : Agent) (c : Conversion) (t : Nat) : Entry :=
  { reference := m.reference, agent := m.agent, amount := c.accepted, minutes := c.minutes, remainder := c.remainder,
    taken := t, deadline := t + a.window * 60 }

/-- An accepted TOP-UP carried out (R73). -/
def Work.topUpAccepted (w : Work) (m : TopUpMsg) (a : Agent) (c : Conversion) (t : Nat) : Work :=
  let entry := m.entry a c t
  let e := w.engine.changeAgent m.agent (fun a => a.charge c.accepted)
  let w := { w with
    engine := { e with
      poolFree := e.poolFree - 1
      settlement := settleInsert ⟨entry.deadline, w.record.kit, entry.reference⟩ e.settlement }
    record := { w.record with pending := w.record.pending ++ [entry] } }
  w.credit c.minutes t

/-- Steps 4 to 12 of R72 on a record that is current. -/
def Work.topUp (w : Work) (m : TopUpMsg) (a : Agent) (calendar : CalendarState) (t : Nat) : Work × TopUpAnswer :=
  if calendar = .unset then w.topUpRefused m .timeUnset t
  else
    match findEntry m.reference w.record.pending with
    | some held => w.duplicate m held t
    | none =>
      if w.record.state = .owned then w.topUpRefused m .wrongState t
      else if m.amount < w.plan.minimum then w.topUpRefused m .belowMinimum t
      else if Config.pendingPerRecord ≤ w.record.pending.length then w.topUpRefused m .pendingFull t
      else if w.engine.poolFree = 0 then w.topUpRefused m .poolFull t
      else
        match convert w.plan m.amount 0 (w.record.base t) t with
        | none => w.topUpRefused m .capExceeded t
        | some c =>
          if ((w.engine.agents.get m.agent).getD a).limit < ((w.engine.agents.get m.agent).getD a).outstanding + c.accepted
          then w.topUpRefused m .floatExceeded t
          else
            let w := w.topUpAccepted m a c t
            (w, ⟨m.reference, .done, c.minutes, c.accepted, c.surplus, w.record.agentDays t⟩)

/-- The answer of a TOP-UP sealed with the agent's key. -/
def TopUpAnswer.reply (answer : TopUpAnswer) (key : Word32) : Option Delivery :=
  some (.reply ((ReplyBody.topUp answer).sealed key))

/-- TOP-UP on the tables (R71 to R74). -/
def Engine.topUp (e : Engine) (m : TopUpMsg) (calendar : CalendarState) (t : Nat) : MessageWork :=
  match e.attribute m.agent m.covered m.check with
  | none => some (e, some (.mark (.agent m.agent)))
  | some a =>
    if a.barred then some (e, (m.refused .agentBarred).reply a.key)
    else if !(kitInRange m.kit && m.reference != 0) then some (e, (m.refused .badField).reply a.key)
    else
      match e.find m.kit with
      | .unknown => some (e, (m.refused .unknownKit).reply a.key)
      | .broken => none
      | .found w =>
        let (w', answer) := (w.current t).topUp m a calendar t
        some (w'.commit, answer.reply a.key)

/-- TOP_UP. -/
def execTopUp (s : State) : Host.Outcome State Fault Refusal :=
  match s.grantedMessage with
  | some (n, .topUp m) => s.handle n (s.engine.topUp m s.calendar.state s.instant)
  | _ => .next s

/-! ## STATUS (R143, R144) -/

/-- A refused STATUS ANSWER (R144). -/
def StatusMsg.refused (m : StatusMsg) (result : Result) : StatusAnswer := ⟨result, m.kit, none, .zero, 0, 0⟩

/-- The STATUS ANSWER of a record that is current (R144). -/
def Work.statusAnswer (w : Work) (t : Nat) : StatusAnswer :=
  { result := .done, kit := w.record.kit, state := some w.record.state, days := w.record.agentDays t,
    pending := w.record.pending.length, progress := w.record.progress w.plan }

/-- The answer of a STATUS sealed with the agent's key. -/
def StatusAnswer.reply (answer : StatusAnswer) (key : Word32) : Option Delivery :=
  some (.reply ((ReplyBody.status answer).sealed key))

/-- STATUS on the tables. -/
def Engine.status (e : Engine) (m : StatusMsg) (t : Nat) : MessageWork :=
  match e.attribute m.agent m.covered m.check with
  | none => some (e, some (.mark (.agent m.agent)))
  | some a =>
    if !kitInRange m.kit then some (e, (m.refused .badField).reply a.key)
    else
      match e.find m.kit with
      | .unknown => some (e, (m.refused .unknownKit).reply a.key)
      | .broken => none
      | .found w =>
        let w := w.current t
        some (w.commit, (w.statusAnswer t).reply a.key)

/-- STATUS. -/
def execStatus (s : State) : Host.Outcome State Fault Refusal :=
  match s.grantedMessage with
  | some (n, .status m) => s.handle n (s.engine.status m s.instant)
  | _ => .next s

end Sys2Proof.Machine
end

