-- ==== Sys2Proof/Machine/NoticeRequests.lean ====
section
/-! DEFINITION. The host requests on time and notices (chapter 6): TAKE NOTICES, NEXT DUE, TABLE SUMMARY. -/

namespace Sys2Proof.Machine

/-- The record of a kit, if it has one. -/
def Engine.recordOf (e : Engine) (kit : Nat) : Option (Nat × Record) :=
  match e.directory.get kit with
  | none => none
  | some slot => (e.accounts.get slot).map (fun r => (slot, r))

/-- A response to a request of section 6.5: result, then for DONE the request instant and the fields (R116). -/
def noticeResponse (r : Request) (result : Result) (t : Nat) (fields : List Field) : Response :=
  ⟨kindByte r, result, if result = .done then wordField t :: fields else []⟩

/-! ## TAKE NOTICES (R117) -/

/-- What TAKE NOTICES reports of a record. -/
def Record.noticeFields (r : Record) : List Field :=
  [wordField r.kit, pairField r.notices.bits, stateField (some r.state), minuteField r.paid]

/-- Empties the flags of a kit's record. -/
def Engine.clearNotices (e : Engine) (kit : Nat) : Engine :=
  match e.recordOf kit with
  | none => e
  | some (slot, r) => { e with accounts := e.accounts.put slot { r with notices := .clear } }

/-- The fields reported of a kit's record as the flags stand. -/
def Engine.noticeReport (e : Engine) (kit : Nat) : List Field :=
  match e.recordOf kit with
  | none => []
  | some (_, r) => r.noticeFields

/-- TAKE NOTICES: up to `count` records from the front of the list, each reported and its flags emptied. -/
def Engine.takeNotices (e : Engine) (count : Nat) : Engine × Result × List Field :=
  if !within 1 8 count then (e, .badField, [])
  else
    let taken := e.notices.take count
    let left := e.notices.drop count
    let cleared := taken.foldl Engine.clearNotices e
    ({ cleared with notices := left }, .done,
      [pairField left.length, byteField taken.length] ++ taken.flatMap e.noticeReport)

/-- TAKE_NOTICES. A listed kit that has no record is a broken table (log entry 21). -/
def execTakeNotices (s : State) : Host.Outcome State Fault Refusal :=
  match s.grantedRequest with
  | some (.takeNotices count) =>
    let (e, result, fields) := s.engine.takeNotices count
    if within 1 8 count && (s.engine.notices.take count).any (fun k => (s.engine.recordOf k).isNone) then
      s.answer none
    else s.answer (some (e, noticeResponse (.takeNotices count) result s.instant fields))
  | _ => .next s

/-! ## NEXT DUE (R119) -/

/-- The entry comes after the position of a start instant and start kit id (R119). -/
def DueItem.after (d : DueItem) (instant kit : Nat) : Bool :=
  instant < d.instant || (d.instant == instant && kit < d.kit)

/-- What NEXT DUE reports of an entry: kit id, kind and instant as keyed, stored state and paid-through. -/
def Engine.dueReport (e : Engine) (d : DueItem) : List Field :=
  match e.recordOf d.kit with
  | none => []
  | some (_, r) =>
    [wordField d.kit, byteField d.kind.code, wordField d.instant, stateField (some r.state), minuteField r.paid]

/-- NEXT DUE: entries in index order from the position, up to the count, and whether more follow. -/
def Engine.nextDue (e : Engine) (instant kit count : Nat) : Result × List Field :=
  if !within 1 8 count then (.badField, [])
  else
    let from_ := e.expiry.filter (fun d => d.after instant kit)
    let told := from_.take count
    (.done, [flagField (count < from_.length), byteField told.length] ++ told.flatMap e.dueReport)

/-- NEXT_DUE. An index entry reported that has no record is a broken table (log entry 21). -/
def execNextDue (s : State) : Host.Outcome State Fault Refusal :=
  match s.grantedRequest with
  | some (.nextDue instant kit count) =>
    let (result, fields) := s.engine.nextDue instant kit count
    if within 1 8 count && ((s.engine.expiry.filter (fun d => d.after instant kit)).take count).any
        (fun d => (s.engine.recordOf d.kit).isNone) then
      s.answer none
    else s.answer (some (s.engine, noticeResponse (.nextDue instant kit count) result s.instant fields))
  | _ => .next s

/-! ## TABLE SUMMARY (R121) -/

/-- How many records hold a stored state. -/
def Engine.countState (e : Engine) (state : RecordState) : Nat :=
  e.accounts.countP (fun a => a.2.state == state)

/-- The summary of the expiry index: count, entries due at `t`, and the head or its marks of absence. -/
def Engine.expirySummary (e : Engine) (known : Bool) (t : Nat) : List Field :=
  let head := e.expiry.head?
  [pairField e.expiry.length, pairField (if known then e.expiry.countP (fun d => d.instant ≤ t) else 0),
    nameField (head.map DueItem.kit)] ++ dueFields (head.map (fun d => (d.kind, d.instant)))

/-- The summary of the settlement index. -/
def Engine.settlementSummary (e : Engine) (known : Bool) (t : Nat) : List Field :=
  let head := e.settlement.head?
  [pairField e.settlement.length, pairField (if known then e.settlement.countP (fun d => d.deadline ≤ t) else 0),
    nameField (head.map SettleItem.kit), nameField (head.map SettleItem.reference),
    minuteField (head.map SettleItem.deadline)]

/-- The report of TABLE SUMMARY, in the order of R121; the due counts are 0 while the calendar is UNSET. -/
def Engine.summaryFields (e : Engine) (calendar : CalendarState) (t : Nat) : List Field :=
  let known := calendar == .known
  [byteField calendar.code, pairField e.accounts.length, pairField (Config.slots - e.accounts.length)]
  ++ [RecordState.enrolled, .active, .lapsed, .defaulted, .suspended, .owned].map (fun x => pairField (e.countState x))
  ++ e.expirySummary known t
  ++ e.settlementSummary known t
  ++ [pairField e.poolFree, flagField e.poolLow, pairField e.notices.length, byteField e.plans.length,
    byteField (e.agents.countP (fun a => !a.2.barred)), byteField (e.agents.countP (fun a => a.2.barred)),
    byteField (e.agents.countP (fun a => a.2.watermark))]

/-- TABLE_SUMMARY. -/
def execTableSummary (s : State) : Host.Outcome State Fault Refusal :=
  match s.grantedRequest with
  | some .tableSummary =>
    s.answer (some (s.engine,
      noticeResponse .tableSummary .done s.instant (s.engine.summaryFields s.calendar.state s.instant)))
  | _ => .next s

end Sys2Proof.Machine
end

