-- ==== Sys2Proof/Machine/Passes.lean ====
section
/-! DEFINITION. The two passes: a grant brings current the record at the head of the pass's index (R32, R109, R110). -/

namespace Sys2Proof.Machine

/-- The record of a kit brought current and put back; `none` when it is not there. -/
def Engine.bringCurrent (e : Engine) (kit t : Nat) : Option Engine :=
  match e.find kit with
  | .unknown => none
  | .broken => none
  | .found w => some (w.current t).commit

/-- A pass grant that handles the record of one kit: no reply and no response (R32). -/
def State.passOver (s : State) (r : Requester) (kit : Nat) : Host.Outcome State Fault Refusal :=
  match s.engine.bringCurrent kit s.instant with
  | none => .fault .brokenTables
  | some e => .next { s with engine := e, pointer := r.next }

/-- EXPIRY_PASS (R109). -/
def execExpiryPass (s : State) : Host.Outcome State Fault Refusal :=
  match s.grant, s.engine.expiry with
  | some .expiryPass, d :: _ => s.passOver .expiryPass d.kit
  | _, _ => .next s

/-- SETTLEMENT_PASS (R110). -/
def execSettlementPass (s : State) : Host.Outcome State Fault Refusal :=
  match s.grant, s.engine.settlement with
  | some .settlementPass, d :: _ => s.passOver .settlementPass d.kit
  | _, _ => .next s

end Sys2Proof.Machine
end

