-- ==== Sys2Proof/Machine/PaymentRequests.lean ====
section
/-! DEFINITION. The host requests on money (chapter 4): PAY, CONFIRM, REVERSE. -/

namespace Sys2Proof.Machine

/-! ## PAY (R67 to R70) -/

/-- The fields of a DONE response to PAY, in the order of R70, from the record after the PAY. -/
def Work.payFields (w : Work) (minutes accepted surplus overpayment : Nat) : List Field :=
  [wordField minutes, wordField accepted, wordField surplus, wordField overpayment, minuteField w.record.paid,
    stateField (some w.record.state), moneyField w.record.confirmed]

/-- The PAY completes the price (R68). -/
def Record.completesPrice (r : Record) (p : Plan) (amount : Nat) : Bool :=
  0 < p.price && p.price ≤ r.confirmed + amount

/-- An accepted conversion carried out (R69): confirmed total, residue, then R9. -/
def Work.payIn (w : Work) (c : Conversion) (t : Nat) : Work :=
  let confirmed := w.record.confirmed + c.accepted
  let w := { w with record := { w.record with
    residue := c.remainder
    confirmed := if w.plan.price = 0 then min confirmed Config.totalMax else confirmed } }
  w.credit c.minutes t

/-- PAY on a record that is current: steps 4 to 9 of R67. -/
def Work.pay (w : Work) (calendar : CalendarState) (amount t : Nat) : Worked :=
  if calendar = .unset then w.refuse .timeUnset
  else if w.record.state = .owned then w.refuse .wrongState
  else if amount < w.plan.minimum then w.refuse .belowMinimum
  else if w.record.completesPrice w.plan amount then
    let accepted := w.plan.price - w.record.confirmed
    let w := w.becomeOwned
    w.done (w.payFields 0 accepted 0 (amount - accepted))
  else
    match convert w.plan amount (residueEntering w.plan.rounding w.record.residue) (w.record.base t) t with
    | none => w.refuse .capExceeded
    | some c =>
      let w := w.payIn c t
      w.done (w.payFields c.minutes c.accepted c.surplus 0)

/-- PAY. -/
def execPay (s : State) : Host.Outcome State Fault Refusal :=
  match s.grantedRequest with
  | some (.pay kit amount) =>
    s.answer (s.engine.onKit (.pay kit amount) kit true none s.instant fun w =>
      w.pay s.calendar.state amount s.instant)
  | _ => .next s

/-! ## CONFIRM (R79) -/

/-- CONFIRM on a record that is current. -/
def Work.confirm (w : Work) (reference : Nat) : Worked :=
  match findEntry reference w.record.pending with
  | none => w.refuse .unknownReference
  | some entry =>
    let wasOwned := w.record.state = .owned
    let (w, beyond) := w.confirmEntry entry
    let overpayment := if wasOwned then entry.amount else beyond
    w.done [wordField entry.reference, byteField entry.agent, wordField entry.amount, wordField overpayment,
      stateField (some w.record.state), moneyField w.record.confirmed]

/-- CONFIRM. -/
def execConfirm (s : State) : Host.Outcome State Fault Refusal :=
  match s.grantedRequest with
  | some (.confirm kit reference) =>
    s.answer (s.engine.onKit (.confirm kit reference) kit (reference != 0) none s.instant fun w => w.confirm reference)
  | _ => .next s

/-! ## REVERSE (R80) -/

/-- The reversal and what follows it on a record that is not OWNED: recomputation, notices against the state held
before the reversal, re-keying (R80). -/
def Work.reverseNow (w : Work) (entry : Entry) (t : Nat) : Work :=
  if w.record.state = .owned then w.reverseEntry entry
  else (((w.reverseEntry entry).recompute t).creditNotices w.record.state t).rekey

/-- REVERSE on a record that is current. -/
def Work.reverse (w : Work) (reference t : Nat) : Worked :=
  match findEntry reference w.record.pending with
  | none => w.refuse .unknownReference
  | some entry =>
    let back := if w.record.state = .owned then 0 else entry.minutes
    let w := w.reverseNow entry t
    w.done [wordField entry.reference, byteField entry.agent, wordField entry.amount, wordField back,
      minuteField w.record.paid, stateField (some w.record.state), wordField w.record.overhang]

/-- REVERSE. -/
def execReverse (s : State) : Host.Outcome State Fault Refusal :=
  match s.grantedRequest with
  | some (.reverse kit reference) =>
    s.answer (s.engine.onKit (.reverse kit reference) kit (reference != 0) none s.instant fun w =>
      w.reverse reference s.instant)
  | _ => .next s

end Sys2Proof.Machine
end

