-- ==== Sys2Proof/Machine/PortFrames.lean ====
section
/-! DEFINITION. The management port's frames and the requests on the attention output (chapter 10), and the answer to a
frame that is no request (R177). -/

namespace Sys2Proof.Machine

/-! ## The status byte (R176, R193) -/

/-- Bits 7 and 6 of the status byte. A part without power shifts nothing out; its arms are never used. -/
def SupplyState.statusBits : SupplyState → List Bool
  | .starting => [false, true]
  | .running => [true, false]
  | .stopping => [true, true]
  | .retaining => [false, false]
  | .unpowered => [false, false]

/-- Bits 5 and 4 of the status byte. -/
def PortState.statusBits : PortState → List Bool
  | .idle => [false, false]
  | .busy => [false, true]
  | .ready => [true, false]

/-- The status byte, most significant bit first (R193). -/
def Status.bits (x : Status) : List Bool :=
  x.supply.statusBits ++ x.port.statusBits ++ [false, false, x.overrun, x.torn]

/-- What the fall of select that lies before the given number of changes of the status has latched (R176, R180); `none` when
a stop, a start or a restart has ended that frame since (R181; log entry 6). -/
def State.latched (s : State) (before : Nat) : Option Status := s.statuses[before]?

/-- The first `n` bits of a run that goes on with ones (R175). -/
def shifted (bits : List Bool) (n : Nat) : List Bool := bits.take n ++ List.replicate (n - bits.length) true

/-- The flags that the latched status byte carried, and no other, are cleared once its eighth bit has been shifted out
(R176). -/
def Port.flagsReported (p : Port) (x : Status) (clocks : Nat) : Port :=
  if 8 ≤ clocks then { p with overrun := p.overrun && !x.overrun, torn := p.torn && !x.torn } else p

/-- Select has risen: no frame is in progress any more, and the bits of the one that ended are recorded. -/
def Port.frameEnded (p : Port) (out : List Bool) : Port := { p with earlier := [], dataOut := out }

/-! ## Judging a request frame (R177) -/

/-- The READ kind (R192). -/
def readKind : Byte := 0x5A

/-- The frame that bits spell, when they spell a complete one; `none` when the frame is torn (R177): a count of clocks that
is not a multiple of eight, bytes after the length byte that do not number the length, more than 64 bytes, or a check that
does not agree (one too short to hold its check among them, log entry 12). -/
def completeFrame (bits : List Bool) : Option Frame :=
  let bytes := packBytes bits
  if bits.length % 8 = 0 && bytes.length ≤ Config.frameBytes then
    match bytes with
    | kind :: length :: rest =>
      let fields := rest.take (rest.length - 2)
      let check := rest.drop (rest.length - 2)
      if rest.length = length.toNat && check.length = 2 && ofBE check = (frameCheck (kind :: length :: fields)).toNat then
        some ⟨kind, fields⟩
      else none
    | _ => none
  else none

/-- The response the port itself makes during STARTING: the frame's kind and STOPPING (R181, R192). -/
def startingResponse (f : Frame) : Response := ⟨f.kind, .stopping, []⟩

/-- What a complete frame does to the port while RUNNING (R178). -/
def Port.acceptRunning (p : Port) (f : Frame) : Port :=
  match p.state with
  | .idle => { p with state := .busy, request := some f }
  | .busy => { p with overrun := true }
  | .ready => { p with overrun := true }

/-- What a complete frame does to the port while STARTING (R181). BUSY does not occur then; it would be refused as in
RUNNING. -/
def Port.acceptStarting (p : Port) (f : Frame) : Port :=
  match p.state with
  | .idle => { p with state := .ready, response := some (startingResponse f) }
  | .busy => { p with overrun := true }
  | .ready => { p with overrun := true }

/-! ## The frames (R175, R178, R179, R181) -/

/-- A request frame judged at the rise of select, its latched status byte shifted out (R177, R178, R181). -/
def State.judgeFrame (s : State) (x : Status) (bits : List Bool) : State :=
  let p := (s.port.flagsReported x bits.length).frameEnded (shifted x.bits bits.length)
  match completeFrame bits with
  | none => { s with port := { p with torn := true } }
  | some f =>
    { s with port := if s.supply.state = .starting then p.acceptStarting f else p.acceptRunning f }

/-- What a READ frame shifts out behind its kind byte: the response when the latched state was READY (R179, R180). -/
def Port.readBits (p : Port) (x : Status) : List Bool :=
  match x.port, p.response with
  | .ready, some r => spellBits r.bytes
  | _, _ => []

/-- A READ frame of `clocks` clocks after its kind byte, in RUNNING or STARTING (R179). The response is gone at the clock
that shifts out its last bit; a count that is no multiple of eight raises TORN at the rise (log entry 7). -/
def State.readFrame (s : State) (x : Status) (clocks : Nat) : State :=
  let out := s.port.readBits x
  let p := (s.port.flagsReported x 8).frameEnded (shifted (x.bits ++ out) (8 + clocks))
  let p := if x.port = .ready ∧ out.length ≤ clocks then { p with state := .idle, response := none } else p
  { s with port := { p with torn := p.torn || clocks % 8 != 0 } }

/-- A frame of `clocks` clocks ends, and what `live` does with the status it latched in RUNNING and STARTING. A stopping port
only reports, a part without power shifts nothing out, and a frame that was ended before leaves nothing (R181). -/
def State.frame (s : State) (before clocks : Nat) (live : Status → State) : State :=
  match s.latched before with
  | none => { s with port := { s.port with earlier := [] } }
  | some x =>
    match s.supply.state with
    | .running | .starting => live x
    | .stopping => { s with port := s.port.frameEnded (shifted x.bits clocks) }
    | .retaining | .unpowered => { s with port := s.port.frameEnded [] }

/-- A READ frame in any supply state. -/
def State.readAny (s : State) (before clocks : Nat) : State :=
  s.frame before (8 + clocks) (fun x => s.readFrame x clocks)

/-! ## Data out (R175, R179, R181) -/

/-- How the host drives select: high, or low in a frame that latched a status at its fall, whose kind byte is READ or not, at
the clock that so many of its clocks came before. -/
inductive Select where
  | high
  | low (latched : Status) (read : Bool) (clock : Nat)
  deriving DecidableEq, Repr

/-- The level of data out: released while select is high and while the part is without power; within a frame the bit shifted
out at that clock, the status byte first, then for a READ frame the response of a port latched READY, then ones, and of a
stopping port ones behind the status (R175, R179, R181; log entry 37). -/
def State.dataOutLevel (s : State) (select : Select) : Level :=
  match select with
  | .high => .highImpedance
  | .low x read clock =>
    match s.supply.state with
    | .running | .starting => Level.ofBit ((x.bits ++ if read then s.port.readBits x else []).getD clock true)
    | .stopping => Level.ofBit (x.bits.getD clock true)
    | .retaining | .unpowered => .highImpedance

/-! ## The commands -/

/-- REQUEST_FRAME: an empty frame is disregarded (R175), a frame whose kind is READ is a READ frame (R179, log entry 6), any
other is judged. -/
def execRequestFrame (frame : FrameIn) (s : State) : Host.Outcome State Fault Refusal :=
  if frame.bits.isEmpty then .next s
  else if (packBytes frame.bits).head? = some readKind then .next (s.readAny frame.before (frame.bits.length - 8))
  else .next (s.frame frame.before frame.bits.length (fun x => s.judgeFrame x frame.bits))

/-- READ_FRAME. -/
def execReadFrame (frame : ReadIn) (s : State) : Host.Outcome State Fault Refusal :=
  .next (s.readAny frame.before frame.clocks)

/-- UNKNOWN_REQUEST_KIND: an accepted frame whose kind names no request, or whose length does not fit its kind, is answered
BAD FIELD with the kind as received (R177, R192). -/
def execUnknownRequestKind (s : State) : Host.Outcome State Fault Refusal :=
  match s.grantedFrame with
  | none => .next s
  | some f =>
    match f.request with
    | some _ => .next s
    | none => s.answer (some (s.engine, ⟨f.kind, .badField, []⟩))

/-! ## The attention output (R182 to R184) -/

/-- SET_ATTENTION_MASK (R183): the mask is sent, and the request is held until it has been written. -/
def execSetAttentionMask (s : State) : Host.Outcome State Fault Refusal :=
  match s.grantedRequest with
  | some (.setAttentionMask b) =>
    match maskOf b with
    | none => s.answer (some (s.engine, ⟨kindByte (.setAttentionMask b), .badField, []⟩))
    | some mask => .next (s.holdPort (.maskWrite mask))
  | _ => .next s

/-- The code of SET ATTENTION MASK (R192). -/
def setMaskKind : Byte := 0x70

/-- MASK_WRITE: all seven enables are written, and the request completes with the mask as written (R182, R183). -/
def execMaskWrite (s : State) : Host.Outcome State Fault Refusal :=
  match s.hold with
  | some (.maskWrite mask) => .next ({ s with mask := mask }.complete ⟨setMaskKind, .done, [byteField mask.bits]⟩)
  | _ => .next s

/-- READ_ATTENTION (R184). -/
def execReadAttention (s : State) : Host.Outcome State Fault Refusal :=
  match s.grantedRequest with
  | some .readAttention =>
    s.answer (some (s.engine, ⟨kindByte .readAttention, .done,
      [byteField s.mask.bits, byteField s.causes.bits, flagField s.attention]⟩))
  | _ => .next s

end Sys2Proof.Machine
end

