-- ==== Sys2Proof/Machine/Supply.lean ====
section
/-! DEFINITION. The supply monitor, the stops and starts of the blocks, and the reset input (chapter 11). -/

namespace Sys2Proof.Machine

/-! ## Stopping (R174, R181, R186) -/

/-- A port that has stopped: buffers empty, IDLE, flags clear, a frame in progress ended (R181). -/
def Port.stopped (p : Port) : Port :=
  { p with state := .idle, request := none, response := none, overrun := false, torn := false, earlier := [] }

/-- Entry to STOPPING: the port and the lines stop at once, the arbiter grants no more, and a restart that waited does not
take place (R33, R188). What the engine holds is carried through. -/
def State.stop (s : State) : State :=
  { s with
    supply := { s.supply with state := .stopping, resetWaiting := false }
    lines := s.lines.map Line.stopped
    port := s.port.stopped }

/-! ## Loss of main supply (R185, R186) -/

/-- What one arrival leaves of a line's settings (R161). -/
def LineItem.settingsOn (held : Settings) : LineItem → Settings
  | .settings new => new
  | .read => held
  | .delivery _ => held

/-- The settings a line is left with when the first `n` things on their way to it still arrive (R161). -/
def settingsLeft (held : Settings) : Nat → List LineItem → Settings
  | _, [] => held
  | n, i :: rest => if n = 0 then held else settingsLeft (i.settingsOn held) (n - 1) rest

/-- The settings the line is left with when the first `n` things on their way to it still arrive. -/
def Line.settingsAfter (l : Line) (n : Nat) : Settings := settingsLeft l.settings n l.inFlight

/-- The command that the held request has sent reaches the calendar (R159, R186): the rest of the work of a held request
leaves nothing that is kept. -/
def Calendar.finish (c : Calendar) : Option Hold → Calendar
  | some (.timeLoad _ d) => c.load d
  | some .align => c.align
  | some (.regulation value) => { c with regulation := value }
  | some (.lineReport _) => c
  | some (.maskWrite _) => c
  | some (.message _) => c
  | none => c

/-- The part without main supply, in RETAINING: the tables, the mark, the line settings and the calendar are kept, the
rest is unpowered and takes its start values at the next start (R186, R181; log entry 16). -/
def State.retained (s : State) (settings : LineNo → Settings) : State :=
  { s with
    hold := none
    pointer := .port
    lines := .of (fun n => .started (settings n))
    port := .started
    mask := .all
    supply := ⟨.retaining, s.supply.mark, false, false⟩ }

/-- The part in UNPOWERED: nothing is kept (R159, R185, R187; log entry 16). -/
def State.unpowered (s : State) : State :=
  { s with
    engine := .cold, hold := none, pointer := .port, calendar := .cold, lines := .cold, port := .started,
    mask := .all, supply := ⟨.unpowered, false, false, false⟩ }

/-- RETAINING when the cell is at or above the retention level, otherwise UNPOWERED (R185). -/
def State.orUnpowered (s : State) (cellHolds : Bool) : State := if cellHolds then s else s.unpowered

/-- The requester whose request the engine may have taken by now: the one the arbiter grants, or, while a restart waits, granted
before the reset input was asserted (R29, R188). -/
def State.mayHaveGranted (s : State) : Option Requester :=
  { s with supply := { s.supply with resetWaiting := false } }.grant

/-- The engine holds a request at a fall of main supply: one that holds it over several steps, or, where the fall comes inside
a request that is one step of the model, the one it has taken (R27, R186; log entry 26). -/
def State.holdsAt (s : State) (fall : SupplyFall) : Bool := s.hold.isSome || (fall.taken && s.mayHaveGranted.isSome)

/-- MAIN_SUPPLY_GOOD_FALL (R185, R186). After a fail warning what the engine holds and has sent completes on the hold-up
charge. Without one, a held request makes the mark invalid (log entry 15), and with the engine idle a free value for each
line says how many of the settings commands still on their way to it arrive (log entry 14). -/
def execMainSupplyGoodFall (fall : SupplyFall) (s : State) : Host.Outcome State Fault Refusal :=
  match s.supply.state with
  | .unpowered | .retaining => .next s
  | .stopping =>
    let s := { s with calendar := s.calendar.finish s.hold }
    .next ((s.retained (fun n => (s.lines.get n).settingsAfter (s.lines.get n).inFlight.length)).orUnpowered fall.cellHolds)
  | .starting | .running =>
    if s.holdsAt fall then
      let s := { s with supply := { s.supply with mark := false } }
      .next ((s.retained (fun n => (s.lines.get n).settings)).orUnpowered fall.cellHolds)
    else
      let landed := fun n => Config.landedCommands (s.freeIndex + lineIndex n)
      let s := { s with freeIndex := s.freeIndex + 4 }
      .next ((s.retained (fun n => (s.lines.get n).settingsAfter (landed n))).orUnpowered fall.cellHolds)

/-- BACKUP_BELOW_RETENTION (R185): in RETAINING the part becomes UNPOWERED and the mark invalid. -/
def execBackupBelowRetention (s : State) : Host.Outcome State Fault Refusal :=
  .next (if s.supply.state = .retaining then s.unpowered else s)

/-! ## Starting (R187) -/

/-- The start values that every start gives: arbiter, port, lines under the given settings, mask (R29, R174, R181, R182);
the backup-low flag as the cell stands (R189). -/
def State.starting (s : State) (cellLow : Bool) : State :=
  { s with
    hold := none
    pointer := .port
    lines := s.lines.map (fun l => .started l.settings)
    port := .started
    mask := .all
    supply := ⟨.starting, s.supply.mark, cellLow, false⟩ }

/-- A cold start: the tables are emptied, the calendar is UNSET at the epoch, the lines take their default settings (R187). -/
def State.coldStart (s : State) : State :=
  { s with engine := .cold, calendar := .cold, lines := .cold }

/-- MAIN_SUPPLY_GOOD_RISE (R187): a valid mark makes the start warm, an invalid one cold. A fail warning found high at the
beginning of STARTING acts as a rise of fail warning there (R185). -/
def execMainSupplyGoodRise (failWarning cellLow : Bool) (s : State) : Host.Outcome State Fault Refusal :=
  match s.supply.state with
  | .starting | .running | .stopping => .next s
  | .retaining | .unpowered =>
    let started := (if s.supply.mark then s else s.coldStart).starting cellLow
    .next (if failWarning then started.stop else started)

/-- START_COMPLETE (R187): the mark is valid, a cold start's last act, and the part is RUNNING; each line counts its quiet
time from here (R174), and the port goes on as STARTING left it (R181). -/
def execStartComplete (s : State) : Host.Outcome State Fault Refusal :=
  match s.supply.state with
  | .starting =>
    .next { s with
      supply := { s.supply with state := .running, mark := true }
      lines := s.lines.map (fun l => { l with quiet := 0, looking := 0 })
      port := { s.port with earlier := s.statuses } }
  | .unpowered | .retaining | .running | .stopping => .next s

/-! ## Fail warning, backup cell, reset input -/

/-- FAIL_WARNING_RISE (R185): STARTING and RUNNING are left for STOPPING. -/
def execFailWarningRise (s : State) : Host.Outcome State Fault Refusal :=
  match s.supply.state with
  | .starting | .running => .next s.stop
  | .unpowered | .retaining | .stopping => .next s

/-- BACKUP_LOW_CHANGE (R189): the flag follows the cell in STARTING, RUNNING and STOPPING. -/
def execBackupLowChange (low : Bool) (s : State) : Host.Outcome State Fault Refusal :=
  match s.supply.state with
  | .starting | .running | .stopping => .next { s with supply := { s.supply with backupLow := low } }
  | .unpowered | .retaining => .next s

/-- RESET_ASSERT (R188): in RUNNING the arbiter makes no further grant and a restart waits for the engine; elsewhere, and
while a restart already waits, it is disregarded. -/
def execResetAssert (s : State) : Host.Outcome State Fault Refusal :=
  .next (if s.supply.state = .running then { s with supply := { s.supply with resetWaiting := true } } else s)

/-- A line restarts with its settings kept (R174); commands the engine sent before are still on their way (log entry 14). -/
def Line.restarted (l : Line) : Line := { Line.started l.settings with inFlight := l.inFlight }

/-- RESET_RESTART (R188): once the engine is idle, the port, the lines and the arbiter restart as at a warm start, and the
mask returns to all enabled. -/
def execResetRestart (s : State) : Host.Outcome State Fault Refusal :=
  .next (
    if s.supply.state = .running && s.supply.resetWaiting && s.hold.isNone then
      { s with
        pointer := .port
        lines := s.lines.map Line.restarted
        port := .started
        mask := .all
        supply := { s.supply with resetWaiting := false } }
    else s)

end Sys2Proof.Machine
end

