-- ==== Sys2Proof/Machine/Dispatch.lean ====
section
/-! DEFINITION. The dispatch of every command to its meaning, one arm a constructor, in the order of the opcode table. -/

namespace Sys2Proof.Machine

def exec (i : Instr) (s : State) : Host.Outcome State Fault Refusal :=
  match i with
  | .enrolKit => Sys2Proof.Machine.execEnrolKit s
  | .lookupKit => Sys2Proof.Machine.execLookupKit s
  | .suspendKit => Sys2Proof.Machine.execSuspendKit s
  | .resumeKit => Sys2Proof.Machine.execResumeKit s
  | .setKitKey => Sys2Proof.Machine.execSetKitKey s
  | .movePlan => Sys2Proof.Machine.execMovePlan s
  | .retireKit => Sys2Proof.Machine.execRetireKit s
  | .definePlan => Sys2Proof.Machine.execDefinePlan s
  | .amendPlan => Sys2Proof.Machine.execAmendPlan s
  | .readPlan => Sys2Proof.Machine.execReadPlan s
  | .releasePlan => Sys2Proof.Machine.execReleasePlan s
  | .pay => Sys2Proof.Machine.execPay s
  | .confirm => Sys2Proof.Machine.execConfirm s
  | .reverse => Sys2Proof.Machine.execReverse s
  | .openAgent => Sys2Proof.Machine.execOpenAgent s
  | .amendAgent => Sys2Proof.Machine.execAmendAgent s
  | .readAgent => Sys2Proof.Machine.execReadAgent s
  | .barAgent => Sys2Proof.Machine.execBarAgent s
  | .unbarAgent => Sys2Proof.Machine.execUnbarAgent s
  | .closeAgent => Sys2Proof.Machine.execCloseAgent s
  | .clearWatermark => Sys2Proof.Machine.execClearWatermark s
  | .takeNotices => Sys2Proof.Machine.execTakeNotices s
  | .nextDue => Sys2Proof.Machine.execNextDue s
  | .tableSummary => Sys2Proof.Machine.execTableSummary s
  | .readTime => Sys2Proof.Machine.execReadTime s
  | .setTime => Sys2Proof.Machine.execSetTime s
  | .alignMinute => Sys2Proof.Machine.execAlignMinute s
  | .setRegulation => Sys2Proof.Machine.execSetRegulation s
  | .setLine => Sys2Proof.Machine.execSetLine s
  | .readLine => Sys2Proof.Machine.execReadLine s
  | .setAttentionMask => Sys2Proof.Machine.execSetAttentionMask s
  | .readAttention => Sys2Proof.Machine.execReadAttention s
  | .unknownRequestKind => Sys2Proof.Machine.execUnknownRequestKind s
  | .checkIn => Sys2Proof.Machine.execCheckIn s
  | .topUp => Sys2Proof.Machine.execTopUp s
  | .status => Sys2Proof.Machine.execStatus s
  | .expiryPass => Sys2Proof.Machine.execExpiryPass s
  | .settlementPass => Sys2Proof.Machine.execSettlementPass s
  | .requestFrame frame => Sys2Proof.Machine.execRequestFrame frame s
  | .readFrame frame => Sys2Proof.Machine.execReadFrame frame s
  | .timebaseStep => Sys2Proof.Machine.execTimebaseStep s
  | .regulationHoldEnd => Sys2Proof.Machine.execRegulationHoldEnd s
  | .timeLoad => Sys2Proof.Machine.execTimeLoad s
  | .alignCommand => Sys2Proof.Machine.execAlignCommand s
  | .regulationWrite => Sys2Proof.Machine.execRegulationWrite s
  | .settingsCommand n elapsed => Sys2Proof.Machine.execSettingsCommand n elapsed s
  | .readCommand n elapsed => Sys2Proof.Machine.execReadCommand n elapsed s
  | .maskWrite => Sys2Proof.Machine.execMaskWrite s
  | .lineDelivery n => Sys2Proof.Machine.execLineDelivery n s
  | .receiveCharacter n elapsed data parityBit stopBit => Sys2Proof.Machine.execReceiveCharacter n elapsed data parityBit stopBit s
  | .gapTimeout n time => Sys2Proof.Machine.execGapTimeout n time s
  | .replyBegin n time => Sys2Proof.Machine.execReplyBegin n time s
  | .replyEnd n elapsed => Sys2Proof.Machine.execReplyEnd n elapsed s
  | .mainSupplyGoodRise failWarning cellLow => Sys2Proof.Machine.execMainSupplyGoodRise failWarning cellLow s
  | .startComplete => Sys2Proof.Machine.execStartComplete s
  | .failWarningRise => Sys2Proof.Machine.execFailWarningRise s
  | .mainSupplyGoodFall fall => Sys2Proof.Machine.execMainSupplyGoodFall fall s
  | .backupBelowRetention => Sys2Proof.Machine.execBackupBelowRetention s
  | .backupLowChange low => Sys2Proof.Machine.execBackupLowChange low s
  | .resetAssert => Sys2Proof.Machine.execResetAssert s
  | .resetRestart => Sys2Proof.Machine.execResetRestart s

end Sys2Proof.Machine
end

