-- ==== Sys2Proof/Safety.lean ====
section
/-! DEFINITION. What the statements about the part are said with: the state a request leaves when it is answered or held,
the bytes of a line message, and the invariants of the tables, the calendar, the lines and the port. -/

namespace Sys2Proof.Machine

/-! ## What a taken command leaves -/

/-- A host request was taken and answered in one step: the tables are `e`, the pointer has moved on from the port, the
request has left its buffer, the port is READY with the response, and keeps the status it had for a frame begun before.
Nothing else has changed (R27, R29, R31, R179, R180). -/
def State.responded (s : State) (e : Engine) (r : Response) : State :=
  { s with
    engine := e
    pointer := .line .line0
    port := { s.port with state := .ready, request := none, response := some r, earlier := s.statuses } }

/-- A host request was taken and is held: the pointer has moved on, the request has left its buffer, the port is still BUSY.
Nothing else has changed (R27, R31). -/
def State.heldFor (s : State) (h : Hold) : State :=
  { s with pointer := .line .line0, port := { s.port with request := none }, hold := some h }

/-- The port can be given a response: RUNNING, and no restart waits (R33, R181). -/
def State.takesResponse (s : State) : Bool := s.supply.state == .running && !s.supply.resetWaiting

/-- The engine's held request is complete and its response is in the port. -/
def State.released (s : State) (r : Response) : State :=
  { s with hold := none, port := { s.port with state := .ready, response := some r, earlier := s.statuses } }

/-- Line `n` changed to `l`, nothing else. -/
def State.withLine (s : State) (n : LineNo) (l : Line) : State := { s with lines := s.lines.put n l }

/-- A line message was taken from line `n`, and `d` is on its way to the line: the message has left the queue, the take
marker is CURRENT, the pointer has moved on, the engine holds the message, the tables are `e` (R29, R31, R162). -/
def State.sending (s : State) (n : LineNo) (e : Engine) (d : Delivery) : State :=
  { s with
    engine := e
    pointer := (Requester.line n).next
    hold := some (.message n)
    lines := s.lines.put n { s.lines.get n with
      inbound := (s.lines.get n).inbound.tail
      take := .current
      inFlight := (s.lines.get n).inFlight ++ [.delivery d] } }

/-- A line message was taken from line `n` and answered with silence and no mark on the line: the message has left the
queue, the pointer has moved on, the tables are `e` (R31, R162). -/
def State.silenced (s : State) (n : LineNo) (e : Engine) : State :=
  { s with
    engine := e
    pointer := (Requester.line n).next
    lines := s.lines.put n { s.lines.get n with inbound := (s.lines.get n).inbound.tail, take := .none } }

/-! ## Work on a record -/

/-- What no bringing current, payment, settlement or raising of a notice touches: the slot, the account table (until the
record is put back), the directory, the plans, and the record's kit, plan, key and grant exchange (R35 to R37). -/
structure Work.Same (w w' : Work) : Prop where
  slot        : w'.slot = w.slot
  plan        : w'.plan = w.plan
  accounts    : w'.engine.accounts = w.engine.accounts
  directory   : w'.engine.directory = w.engine.directory
  plans       : w'.engine.plans = w.engine.plans
  kit         : w'.record.kit = w.record.kit
  planNumber  : w'.record.plan = w.record.plan
  key         : w'.record.key = w.record.key
  offer       : w'.record.offer = w.record.offer
  acked       : w'.record.acked = w.record.acked
  lastCheckIn : w'.record.lastCheckIn = w.record.lastCheckIn
  energy      : w'.record.energy = w.record.energy
  kitFlags    : w'.record.kitFlags = w.record.kitFlags
  badChecks   : w'.record.badChecks = w.record.badChecks

/-! ## The requests that name a record (R11, R12) -/

/-- The command of a host request that names a record to be brought current, the kit id it carries, and whether its other
fields are in their ranges. -/
def Request.onRecord : Request → Option (Instr × Nat × Bool)
  | .lookupKit kit => some (.lookupKit, kit, true)
  | .suspendKit kit _ => some (.suspendKit, kit, true)
  | .resumeKit kit => some (.resumeKit, kit, true)
  | .setKitKey kit _ => some (.setKitKey, kit, true)
  | .movePlan kit plan => some (.movePlan, kit, decide (plan ≤ 31))
  | .retireKit kit force => some (.retireKit, kit, decide (force ≤ 1))
  | .pay kit _ => some (.pay, kit, true)
  | .confirm kit reference => some (.confirm, kit, decide (reference ≠ 0))
  | .reverse kit reference => some (.reverse, kit, decide (reference ≠ 0))
  | _ => none

/-! ## Line messages as they are sent (R190) -/

/-- The bytes of a CHECK-IN on the line: marker, length, kind, payload, keyed check. -/
def CheckInMsg.bytes (m : CheckInMsg) : List Byte := lineMarker :: m.covered ++ bytesLE 4 m.check.toNat

/-- The bytes of a TOP-UP on the line. -/
def TopUpMsg.bytes (m : TopUpMsg) : List Byte := lineMarker :: m.covered ++ bytesLE 4 m.check.toNat

/-- The bytes of a STATUS on the line. -/
def StatusMsg.bytes (m : StatusMsg) : List Byte := lineMarker :: m.covered ++ bytesLE 4 m.check.toNat

/-- The bytes of a message on the line. -/
def Message.bytes : Message → List Byte
  | .checkIn m => m.bytes
  | .topUp m => m.bytes
  | .status m => m.bytes

/-- Every field of the message fits its width in R190. -/
def Message.fits : Message → Bool
  | .checkIn m => m.kit < 2 ^ 32 && m.held < 2 ^ 32 && m.energy < 2 ^ 16
  | .topUp m => m.agent < 2 ^ 8 && m.kit < 2 ^ 32 && m.amount < 2 ^ 32 && m.reference < 2 ^ 32
  | .status m => m.agent < 2 ^ 8 && m.kit < 2 ^ 32

/-- The role that takes the message in (R166). -/
def Message.role : Message → Role
  | .checkIn _ => .kit
  | .topUp _ => .agent
  | .status _ => .agent

/-! ## Invariants of the tables

Each is kept by every command on its own, and holds at reset. -/

/-- The directory holds exactly the kit ids of the occupied slots, in strictly increasing order (R1, R2, R3). -/
abbrev Engine.directoryWf (e : Engine) : Prop :=
  Table.wf e.accounts ∧ Table.wf e.directory ∧
  (∀ a ∈ e.accounts, a.1 < Config.slots ∧ kitInRange a.2.kit = true ∧ e.directory.get a.2.kit = some a.1) ∧
  (∀ d ∈ e.directory, (e.accounts.get d.2).map Record.kit = some d.1)

/-- Every record names a DEFINED plan, and each plan's reference count is the number of records that name it (R40). -/
abbrev Engine.plansWf (e : Engine) : Prop :=
  e.directoryWf ∧ Table.wf e.plans ∧
  (∀ p ∈ e.plans, p.1 < Config.planSlots ∧ p.2.refCount = e.accounts.countP (fun a => a.2.plan == p.1)) ∧
  (∀ a ∈ e.accounts, (e.plans.get a.2.plan).isSome = true)

/-- A record is OWNED exactly when its plan price is above 0 and its confirmed total equals it (R10). -/
abbrev Engine.ownersWf (e : Engine) : Prop :=
  e.plansWf ∧
  ∀ a ∈ e.accounts, ∀ p ∈ e.plans, p.1 = a.2.plan →
    (0 < p.2.price → a.2.confirmed ≤ p.2.price) ∧
    (a.2.state = .owned ↔ 0 < p.2.price ∧ a.2.confirmed = p.2.price)

/-- Fields of a record that bound one another: an acknowledged number not above the offered one, a run-through for RUN and
no other kind, a suspend reason in SUSPENDED and no other state, paid-through absent in ENROLLED and present in ACTIVE,
LAPSED and DEFAULTED, and the saturating counts (R4, R5, R7, R124). -/
abbrev Record.wf (r : Record) : Prop :=
  r.acked ≤ r.offer.number ∧ r.offer.number ≤ Config.max32 ∧
  (r.offer.runThrough.isSome = true ↔ r.offer.kind = some .run) ∧
  (r.reason.isSome = true ↔ r.state = .suspended) ∧
  (r.state = .enrolled → r.paid = none) ∧
  (r.state = .active ∨ r.state = .lapsed ∨ r.state = .defaulted → r.paid.isSome = true) ∧
  r.badChecks ≤ Config.badCheckLimit ∧ r.energy ≤ Config.max32

/-- Every record is well formed. -/
abbrev Engine.recordsWf (e : Engine) : Prop := ∀ a ∈ e.accounts, a.2.wf

/-- The item of the expiry index that a record's due entry calls for (R107). -/
def Record.dueItem (r : Record) (slot : Nat) : Option DueItem :=
  r.due.map (fun d => ⟨d.2, r.kit, slot, d.1⟩)

/-- The expiry index is in order of instant and kit id, and holds exactly the due entries of the ACTIVE and LAPSED
records (R107). -/
abbrev Engine.expiryWf (e : Engine) : Prop :=
  e.directoryWf ∧ e.recordsWf ∧
  e.expiry.Pairwise (fun a b => a.before b = true) ∧
  (∀ d ∈ e.expiry, (e.accounts.get d.slot).bind (fun r => r.dueItem d.slot) = some d) ∧
  (∀ a ∈ e.accounts, ∀ d ∈ a.2.dueItem a.1, d ∈ e.expiry) ∧
  (∀ a ∈ e.accounts, (a.2.due.isSome = true ↔ a.2.state = .active ∨ a.2.state = .lapsed))

/-- The notice list holds each record whose flags are not empty once, and no other (R114). -/
abbrev Engine.noticesWf (e : Engine) : Prop :=
  e.directoryWf ∧ e.notices.Nodup ∧
  (∀ a ∈ e.accounts, (a.2.kit ∈ e.notices ↔ a.2.notices ≠ .clear)) ∧
  (∀ k ∈ e.notices, (e.directory.get k).isSome = true)

/-- The pending entries of all records. -/
def Engine.entries (e : Engine) : List Entry := e.accounts.flatMap (fun a => a.2.pending)

/-- The item of the settlement index for an entry of a kit's record (R66). -/
def Entry.item (en : Entry) (kit : Nat) : SettleItem := ⟨en.deadline, kit, en.reference⟩

/-- Pending entries by deadline, equal deadlines in order of arrival (R66). -/
def byDeadline (pending : List Entry) : List Entry := pending.foldl (fun sorted e => insertByDeadline e sorted) []

/-- The ranges of R39 that the money rules rest on. -/
abbrev Plan.paysWf (p : Plan) : Prop := 0 < p.rate ∧ 0 < p.minimum

/-- The pool is exact and no record holds more than 4 entries (R64, R65); the settlement index holds each entry once, in
order of deadline, kit id and arrival (R66); each agent's outstanding is the sum of its entries (R90). -/
abbrev Engine.moneyWf (e : Engine) : Prop :=
  e.directoryWf ∧ Table.wf e.plans ∧ Table.wf e.agents ∧
  (∀ p ∈ e.plans, p.2.paysWf) ∧
  e.poolFree + e.entries.length = Config.poolEntries ∧
  (∀ a ∈ e.accounts, a.2.pending.length ≤ Config.pendingPerRecord ∧ (a.2.pending.map Entry.reference).Nodup) ∧
  (∀ en ∈ e.entries, 0 < en.reference ∧ 0 < en.amount ∧ (e.agents.get en.agent).isSome = true) ∧
  (∀ g ∈ e.agents, g.2.outstanding = amountSum (e.entries.filter (fun en => en.agent == g.1))) ∧
  e.settlement.Pairwise (fun a b => b.before a = false) ∧
  (∀ i ∈ e.settlement, (e.directory.get i.kit).isSome = true) ∧
  (∀ a ∈ e.accounts,
    e.settlement.filter (fun i => i.kit == a.2.kit) = (byDeadline a.2.pending).map (fun en => en.item a.2.kit))

/-! ## Invariants of the calendar, the lines and the port -/

/-- The calendar holds a date in its range, the district minute of that date, and counts within their bounds; while the
regulation hold runs the sub-second count is 0 (R145, R149). -/
abbrev Calendar.wf (c : Calendar) : Prop :=
  c.time.valid = true ∧ c.districtMinute = c.time.districtMinute ∧ c.sub < Config.secondSteps ∧
  c.regulation.natAbs ≤ Config.regulationMax ∧ c.hold ≤ Config.regulationMax ∧ (0 < c.hold → c.sub = 0)

/-- What the engine holds for the calendar is in range. -/
def Hold.inRange : Hold → Bool
  | .timeLoad _ d => d.valid
  | .regulation v => decide (v.natAbs ≤ Config.regulationMax)
  | .align => true
  | .lineReport _ => true
  | .maskWrite _ => true
  | .message _ => true

/-- The calendar is sound, and so is a command on its way to it. -/
abbrev State.calendarWf (s : State) : Prop := s.calendar.wf ∧ ∀ h ∈ s.hold, h.inRange = true

/-- The held request came from the port. -/
def Hold.ofPort : Hold → Bool
  | .timeLoad _ _ => true
  | .align => true
  | .regulation _ => true
  | .lineReport _ => true
  | .maskWrite _ => true
  | .message _ => false

/-- Both buffers of the port are empty. -/
abbrev Port.empty (p : Port) : Prop := p.request = none ∧ p.response = none

/-- What a frame in progress has latched can have become the status of now: its flags are those held, the part may have gone
from STARTING to RUNNING, and the port from BUSY to READY (R176, R180, R181). -/
abbrev Status.leadsTo (x now : Status) : Prop :=
  x.overrun = now.overrun ∧ x.torn = now.torn ∧
  (x.supply = now.supply ∨ (x.supply = .starting ∧ now.supply = .running)) ∧
  (x.port = now.port ∨ (x.port = .busy ∧ now.port = .ready))

/-- The port, the engine and the supply monitor agree: IDLE has both buffers empty, READY has a response and no request,
BUSY has no response and either a request not taken, or one the engine holds, or one lost to a restart that waits; the
engine holds something only in RUNNING and STOPPING, a restart waits only in RUNNING, and the port has work only in RUNNING
and STARTING; what a frame in progress has latched leads to the status of now (R27, R33, R176 to R181, R188). -/
abbrev State.portWf (s : State) : Prop :=
  (s.port.state = .idle → s.port.empty) ∧
  (s.port.state = .ready → s.port.request = none ∧ s.port.response.isSome = true) ∧
  (s.port.state = .busy → s.port.response = none ∧ s.supply.state = .running ∧
    (s.port.request = none → s.supply.resetWaiting = true ∨ ∃ h ∈ s.hold, h.ofPort = true)) ∧
  (∀ h ∈ s.hold, h.ofPort = true → s.supply.state = .running → s.port.state = .busy ∧ s.port.request = none) ∧
  (s.hold.isSome = true → s.supply.state = .running ∨ s.supply.state = .stopping) ∧
  (s.supply.resetWaiting = true → s.supply.state = .running) ∧
  (s.supply.state ≠ .running → s.supply.state ≠ .starting →
    s.port.state = .idle ∧ s.port.overrun = false ∧ s.port.torn = false) ∧
  (∀ x ∈ s.port.earlier, x.leadsTo s.status)

/-- What is in assembly can still become a message the role takes in (R165, R166). -/
def Assembler.wf (role : Role) : Assembler → Bool
  | .hunt => true
  | .length => true
  | .body _ [] => true
  | .body total (kind :: rest) =>
    kindLength kind.toNat == some total && takenIn role kind.toNat && decide (rest.length + 1 < total)
  | .skip _ => true

/-- A line's queues are within 4, an OFF line is still, the quiet time outside HUNT is no more than that of the marker's own
character, which ends it, and none behind the marker, and a HALF duplex line that sends is in HUNT (R160, R165, R168 to
R170). -/
abbrev Line.wf (l : Line) : Prop :=
  l.inbound.length ≤ Config.lineQueue ∧ l.outbound.length ≤ Config.lineQueue ∧
  (l.take = .current → l.outbound.length < Config.lineQueue) ∧
  (l.settings.role = .off →
    l.inbound = [] ∧ l.outbound = [] ∧ l.transmitter = .idle ∧ l.assembler = .hunt ∧ l.take ≠ .current) ∧
  (l.assembler ≠ .hunt → l.quiet ≤ if l.assembler = .length then l.settings.receiveUnits else 0) ∧
  (l.settings.duplex = .half → l.transmitter ≠ .idle → l.assembler = .hunt) ∧
  l.assembler.wf l.settings.role = true

/-- Something on its way to a line is a reply or a mark. -/
def LineItem.isDelivery : LineItem → Bool
  | .delivery _ => true
  | .settings _ => false
  | .read => false

/-- The line's marker and what is on its way to it agree with what the engine holds (R31, R162, R173). -/
abbrev Line.agrees (l : Line) (n : LineNo) (h : Option Hold) : Prop :=
  (l.take ≠ .none ↔ h = some (.message n)) ∧
  l.inFlight.countP LineItem.isDelivery = (if h = some (.message n) then 1 else 0) ∧
  l.inFlight.countP (fun i => i == .read) = (if h = some (.lineReport n) then 1 else 0)

/-- The four lines. -/
def lineNos : List LineNo := [.line0, .line1, .line2, .line3]

/-- Every line is sound and agrees with the engine. -/
abbrev State.linesWf (s : State) : Prop :=
  ∀ n ∈ lineNos, (s.lines.get n).wf ∧ (s.lines.get n).agrees n s.hold

end Sys2Proof.Machine
end

