-- ==== Sys2Proof/Certificates/Slice0/Obligations.lean ====
section
/-! DEFINITION. The statements about the part, in the order of the manual's chapters after the queue and the frames. A
statement that exec answers a next state gives that whole state, or names what is in it: whatever is not named as changed in
a record update is unchanged. -/

open Sys2Proof Sys2Proof.Machine

/-! ## The queue of commands and reset -/

/-- A step takes the command at the front of the queue and runs it on the state with the queue's rest; with no command
waiting it changes nothing. Both are the model's form (log entry 1). -/
def Obligations.StepTakesFrontCommand : Prop :=
  (∀ (c : Instr) (rest : List Instr) (s : State),
      step { s with pending := c :: rest } = exec c { s with pending := rest }) ∧
  (∀ s : State, s.pending = [] → step s = .next s)

/-- No command looks at the commands that wait behind it or changes them (log entry 1). -/
def Obligations.CommandsIgnoreTheQueue : Prop :=
  ∀ (c : Instr) (s s' : State) (q : List Instr),
    exec c s = .next s' → exec c { s with pending := q } = .next { s' with pending := q }

/-- The values of every table, register and setting after a cold start (R25, R29, R49, R87, R103, R122, R159, R160, R174,
R181, R182, R187); that reset stands at the end of a cold start in RUNNING, and the model's own fields, are log entries 3,
6, 8, 14, 17 and 18. -/
def Obligations.ResetValues : Prop :=
  State.reset =
    { engine :=
        { accounts := [], directory := [], plans := [], agents := [], poolFree := 2048, expiry := [], settlement := [],
          notices := [] }
      hold := none
      pointer := .port
      calendar :=
        { state := .unset, time := ⟨2000, 1, 1, 0, 0, 0⟩, sub := 0, districtMinute := 0, regulation := 0, hold := 0,
          minuteEvents := 0 }
      lines := Lines.map (fun _ =>
        { settings := ⟨.off, .r9600, .none, .one, .half⟩, assembler := .hunt, inbound := [], outbound := [],
          transmitter := .idle, flags := ⟨false, false, false, false, false, false, false, false⟩, lastUnknown := none,
          take := .none, quiet := 0, silence := 0, looking := 0, inFlight := [] }) State.reset.lines
      port :=
        { state := .idle, request := none, response := none, overrun := false, torn := false,
          earlier := [⟨.starting, .idle, false, false⟩], dataOut := [] }
      mask := ⟨true, true, true, true, true, true, true⟩
      supply := { state := .running, mark := true, backupLow := false, resetWaiting := false }
      freeIndex := 0
      pending := [] }

/-- The invariants of the tables, the calendar, the port and the lines hold at reset. -/
def Obligations.InvariantsHoldAtReset : Prop :=
  State.reset.engine.ownersWf ∧ State.reset.engine.recordsWf ∧ State.reset.engine.expiryWf ∧
  State.reset.engine.noticesWf ∧ State.reset.engine.moneyWf ∧ State.reset.calendarWf ∧ State.reset.portWf ∧
  State.reset.linesWf

/-! ## Frames and messages as bytes (R177, R190, R192) -/

/-- The frame of a request, each of whose numbers fits its field, is read back as that request, every number as it was. -/
def Obligations.RequestFramesRoundTrip : Prop :=
  ∀ r : Request, r.fits = true → r.frame.request = some r

/-- Bits are a complete frame exactly when they spell, most significant bit first, the kind, the length, the fields and the
agreeing check of that frame, in at most 64 bytes (R177, R193; that a frame too short for its check is torn is log entry
12). -/
def Obligations.CompleteFramesAreWires : Prop :=
  ∀ (bits : List Bool) (f : Frame),
    completeFrame bits = some f ↔ bits = spellBits f.wire ∧ f.wire.length ≤ 64

/-- The bytes of a message, taken one by one by a hunting line of the role that takes it in and with a place free, leave the
line hunting with that message, every field and the check as sent, at the tail of its inbound queue. Of one good character:
HUNT goes to LENGTH at the marker and stays at any other value; LENGTH takes it as the length and goes to BODY; at the kind
byte a byte that names no kind raises UNKNOWN KIND, else a length that is not the kind's BAD LENGTH, both back to HUNT, else
a kind that the role does not take in WRONG ROLE, to SKIP with the rest of the length to count, and else BODY goes on; BODY
collects up to the length; the last byte completes the message that its bytes spell, which joins a queue of fewer than 4 and
is dropped with MESSAGE OVERRUN at 4; SKIP counts down to HUNT. Nothing else of the line changes (R165, R166, R168, R190). -/
def Obligations.LineMessagesAssemble : Prop :=
  (∀ (m : Message) (l : Line), m.fits = true → l.settings.role = m.role → l.assembler = .hunt → l.inbound.length < 4 →
    m.bytes.foldl Line.assemble l = { l with inbound := l.inbound ++ [m] }) ∧
  (∀ (l : Line) (b : Byte),
    let lengths : List (Byte × Nat) := [(0x31, 16), (0x32, 17), (0x41, 18), (0x42, 24), (0x43, 10), (0x44, 15)]
    let takes := fun kind : Byte =>
      (l.settings.role = .kit ∧ kind = 0x31) ∨ (l.settings.role = .agent ∧ (kind = 0x41 ∨ kind = 0x43))
    (l.assembler = .hunt → b = 0xA5 → l.assemble b = { l with assembler := .length }) ∧
    (l.assembler = .hunt → b ≠ 0xA5 → l.assemble b = l) ∧
    (l.assembler = .length → l.assemble b = { l with assembler := .body b.toNat [] }) ∧
    (∀ length, l.assembler = .body length [] →
      (lengths.lookup b = none →
        l.assemble b = { l with assembler := .hunt, flags := { l.flags with unknownKind := true } }) ∧
      (∀ n, lengths.lookup b = some n →
        (length ≠ n → l.assemble b = { l with assembler := .hunt, flags := { l.flags with badLength := true } }) ∧
        (length = n → ¬takes b →
          l.assemble b = { l with assembler := .skip (length - 1), flags := { l.flags with wrongRole := true } }) ∧
        (length = n → takes b → l.assemble b = { l with assembler := .body length [b] }))) ∧
    (∀ length kind rest, l.assembler = .body length (kind :: rest) →
      (rest.length + 2 < length → l.assemble b = { l with assembler := .body length (kind :: rest ++ [b]) }) ∧
      (takes kind → lengths.lookup kind = some length → rest.length + 2 = length →
        ∃ m : Message, m.fits = true ∧ m.bytes = 0xA5 :: BitVec.ofNat 8 length :: kind :: rest ++ [b] ∧
          (l.inbound.length < 4 → l.assemble b = { l with assembler := .hunt, inbound := l.inbound ++ [m] }) ∧
          (4 ≤ l.inbound.length →
            l.assemble b = { l with assembler := .hunt, flags := { l.flags with messageOverrun := true } }))) ∧
    (∀ left, l.assembler = .skip left →
      (1 < left → l.assemble b = { l with assembler := .skip (left - 1) }) ∧
      (left ≤ 1 → l.assemble b = { l with assembler := .hunt })))

/-! ## Requests on records (chapter 1) -/

/-- Each of the nine requests that name a record to be brought current is refused with BAD FIELD when its kit id or a
field of its own is out of range, and else with UNKNOWN KIT when the directory does not hold the kit; either leaves every
table as it was, and the response carries the result and the kit id alone (R3, R11, R12; for the FORCE byte of RETIRE KIT
log entry 11). A frame taken that holds no request is answered BAD FIELD with its kind as received and no further field
(R177, R192). -/
def Obligations.BadRequestsAreRefused : Prop :=
  (∀ (r : Request) (c : Instr) (kit : Nat) (good : Bool) (s : State),
      r.onRecord = some (c, kit, good) → s.grantedRequest = some r →
      (¬(1 ≤ kit ∧ kit ≤ 4294967294 ∧ good = true) →
        exec c s = .next (s.responded s.engine ⟨BitVec.ofNat 8 r.code, .badField, [wordField kit]⟩)) ∧
      (1 ≤ kit → kit ≤ 4294967294 → good = true → s.engine.directory.get kit = none →
        exec c s = .next (s.responded s.engine ⟨BitVec.ofNat 8 r.code, .unknownKit, [wordField kit]⟩))) ∧
  (∀ (s : State) (f : Frame), s.grantedFrame = some f → f.request = none →
      exec .unknownRequestKind s = .next (s.responded s.engine ⟨f.kind, .badField, []⟩))

/-- ENROL KIT, the account table being in its canonical form: the four refusals in their order, and the new record in the
lowest free slot (R13, R14, R1, R2). -/
def Obligations.EnrolKitWritesRecord : Prop :=
  ∀ (s : State) (kit plan key base : Nat),
    s.grantedRequest = some (.enrolKit kit plan key base) → Table.wf s.engine.accounts →
    let good := 1 ≤ kit ∧ kit ≤ 4294967294 ∧ plan ≤ 31 ∧ base ≤ 4294967294
    let refused := fun result => Host.Outcome.next (s.responded s.engine ⟨0x01, result, [wordField kit]⟩)
    (¬good → exec .enrolKit s = refused .badField) ∧
    (good → s.engine.plans.get plan = none → exec .enrolKit s = refused .unknownPlan) ∧
    (∀ p, good → s.engine.plans.get plan = some p →
      ((s.engine.directory.get kit).isSome = true → exec .enrolKit s = refused .duplicateKit) ∧
      (s.engine.directory.get kit = none → (∀ j < 4096, (s.engine.accounts.get j).isSome = true) →
        exec .enrolKit s = refused .tableFull) ∧
      (s.engine.directory.get kit = none →
        ∀ slot < 4096, s.engine.accounts.get slot = none → (∀ j < slot, (s.engine.accounts.get j).isSome = true) →
          exec .enrolKit s = .next (s.responded
            { s.engine with
              accounts := s.engine.accounts.put slot
                { kit := kit, state := .enrolled, reason := none, plan := plan, key := BitVec.ofNat 32 key, paid := none,
                  residue := 0, confirmed := 0, pending := [], offer := ⟨base, none, none⟩, acked := base,
                  reminded := false, lastCheckIn := none, energy := 0, kitFlags := ⟨false, false⟩, badChecks := 0,
                  notices := .clear, due := none }
              directory := s.engine.directory.put kit slot
              plans := s.engine.plans.put plan { p with refCount := p.refCount + 1 } }
            ⟨0x01, .done, [wordField kit, pairField slot]⟩)))

/-- LOOKUP KIT brings the record current and reports it as it then stands, every field of R15 in its order
(the width of the overhang is log entry 10). SET KIT KEY is
accepted in every state: beyond bringing current it writes the key and empties the bad check count, and nothing else
(R18). -/
def Obligations.LookupAndKeyRequests : Prop :=
  (∀ (s : State) (kit : Nat) (w : Work),
      s.grantedRequest = some (.lookupKit kit) → 1 ≤ kit → kit ≤ 4294967294 → s.engine.find kit = .found w →
      let w := w.current s.instant
      let r := w.record
      exec .lookupKit s = .next (s.responded { w.engine with accounts := w.engine.accounts.put w.slot r }
        ⟨0x02, .done,
          [wordField kit, pairField w.slot, stateField (some r.state), reasonField r.reason, byteField r.plan,
            minuteField r.paid, residueField r.residue, moneyField r.confirmed, byteField r.pending.length]
          ++ r.pending.flatMap (fun en => [wordField en.reference, byteField en.agent, wordField en.amount,
            wordField en.minutes, wordField en.taken, wordField en.deadline])
          ++ [wordField r.offer.number, byteField ((r.offer.kind.map GrantKind.code).getD 0),
            minuteField r.offer.runThrough, wordField r.acked, flagField r.reminded,
            minuteField (r.lastCheckIn.map Prod.fst), lineField (r.lastCheckIn.map Prod.snd), wordField r.energy,
            byteField r.kitFlags.bits, byteField r.badChecks, pairField r.notices.bits,
            byteField ((r.due.map (fun d => d.1.code)).getD 0), minuteField (r.due.map Prod.snd), wordField r.overhang,
            flagField (r.ownershipPending w.plan), byteField (r.progress w.plan),
            byteField (r.kitDays s.instant).kitByte]⟩)) ∧
  (∀ (s : State) (kit key : Nat) (w : Work),
      s.grantedRequest = some (.setKitKey kit key) → 1 ≤ kit → kit ≤ 4294967294 → s.engine.find kit = .found w →
      let w := w.current s.instant
      exec .setKitKey s = .next (s.responded
        { w.engine with
          accounts := w.engine.accounts.put w.slot { w.record with key := BitVec.ofNat 32 key, badChecks := 0 } }
        ⟨0x05, .done, [wordField kit]⟩))

/-- SUSPEND KIT, on a record as bringing current left it: WRONG STATE for a SUSPENDED or OWNED record; otherwise the
record is SUSPENDED with the reason and has no due entry, in the record or in the index (R16). RESUME KIT: WRONG STATE for
a record that is not SUSPENDED; otherwise the state that paid-through calls for, REMIND when the record ends ACTIVE within
its lead and none was raised, no other notice, and the due entry keyed anew (R17, R8, R104). -/
def Obligations.SuspendAndResumeKit : Prop :=
  (∀ (s : State) (kit reason : Nat) (w : Work),
      s.grantedRequest = some (.suspendKit kit reason) → 1 ≤ kit → kit ≤ 4294967294 → s.engine.find kit = .found w →
      let w := w.current s.instant
      (w.record.state = .suspended ∨ w.record.state = .owned →
        exec .suspendKit s = .next (s.responded w.commit ⟨0x03, .wrongState, [wordField kit]⟩)) ∧
      (w.record.state ≠ .suspended → w.record.state ≠ .owned →
        exec .suspendKit s = .next (s.responded
          { w.engine with
            accounts := w.engine.accounts.put w.slot
              { w.record with state := .suspended, reason := some reason, due := none }
            expiry := dueRemove w.record.kit w.engine.expiry }
          ⟨0x03, .done, [wordField kit, stateField (some w.record.state)]⟩))) ∧
  (∀ (s : State) (kit : Nat) (w : Work),
      s.grantedRequest = some (.resumeKit kit) → 1 ≤ kit → kit ≤ 4294967294 → s.engine.find kit = .found w →
      let w := w.current s.instant
      let state := creditState w.record.paid w.plan.window s.instant
      let remind := state == .active && decide (0 < w.plan.lead) &&
        decide (w.record.paid.getD 0 - s.instant ≤ w.plan.lead) && !w.record.reminded
      let r := { w.record with
        reason := none, state := state, reminded := w.record.reminded || remind
        notices := if remind then w.record.notices.raise .remind else w.record.notices }
      let due := r.dueFor w.plan
      (w.record.state ≠ .suspended →
        exec .resumeKit s = .next (s.responded w.commit ⟨0x04, .wrongState, [wordField kit]⟩)) ∧
      (w.record.state = .suspended →
        exec .resumeKit s = .next (s.responded
          { w.engine with
            accounts := w.engine.accounts.put w.slot { r with due := due }
            expiry := rekeyed w.engine.expiry w.record.kit w.slot due
            notices := if remind && decide (w.record.notices = .clear) then w.engine.notices ++ [w.record.kit]
              else w.engine.notices }
          ⟨0x04, .done, [wordField kit, stateField (some state)]⟩)))

/-- MOVE PLAN on a record as bringing current left it: WRONG STATE for an OWNED record, ENTRIES PENDING while entries are
pending, and for the plan already held DONE with nothing more changed (R19; that the state is carried then is log entry 33).
To a different plan: the two reference counts move by one; residue and paid-through are kept; a confirmed total that reaches
the new price makes the record OWNED (R10); a SUSPENDED record only changes its plan; any other is recomputed under the new
default window, DEFAULTED is raised when LAPSED becomes DEFAULTED, REMIND when it ends ACTIVE within the new lead with no
reminder raised, and its due entry is keyed under the new lead (R20, R8, R104, R114). -/
def Obligations.MovePlanMovesRecord : Prop :=
  ∀ (s : State) (kit plan : Nat) (new : Plan) (w : Work),
    s.grantedRequest = some (.movePlan kit plan) → 1 ≤ kit → kit ≤ 4294967294 → plan ≤ 31 →
    s.engine.plans.get plan = some new → s.engine.find kit = .found w →
    let t := s.instant
    let w := w.current t
    let answered := fun (e : Engine) (result : Result) (fields : List Field) =>
      exec .movePlan s = .next (s.responded e ⟨0x06, result, wordField kit :: fields⟩)
    (w.record.state = .owned → answered w.commit .wrongState []) ∧
    (w.record.state ≠ .owned → w.record.pending ≠ [] → answered w.commit .entriesPending []) ∧
    (w.record.state ≠ .owned → w.record.pending = [] → plan = w.record.plan →
      answered w.commit .done [stateField (some w.record.state)]) ∧
    (∀ old, w.record.state ≠ .owned → w.record.pending = [] → plan ≠ w.record.plan →
      s.engine.plans.get w.record.plan = some old →
      let plans := (w.engine.plans.put w.record.plan { old with refCount := old.refCount - 1 }).put plan
        { new with refCount := new.refCount + 1 }
      let reaches := 0 < new.price ∧ new.price ≤ w.record.confirmed
      let joined := if w.record.notices = .clear then w.engine.notices ++ [w.record.kit] else w.engine.notices
      (reaches → answered
        { w.engine with
          plans := plans
          accounts := w.engine.accounts.put w.slot { w.record with
            plan := plan, state := .owned, confirmed := new.price, reason := none, due := none
            notices := { w.record.notices with owned := true } }
          expiry := dueRemove w.record.kit w.engine.expiry
          notices := joined } .done [stateField (some .owned)]) ∧
      (¬reaches → w.record.state = .suspended → answered
        { w.engine with plans := plans, accounts := w.engine.accounts.put w.slot { w.record with plan := plan } }
        .done [stateField (some .suspended)]) ∧
      (¬reaches → w.record.state ≠ .suspended →
        let state := creditState w.record.paid new.window t
        let defaulted := w.record.state = .lapsed ∧ state = .defaulted
        let remind := state = .active ∧ 0 < new.lead ∧ w.record.paid.getD 0 - t ≤ new.lead ∧ w.record.reminded = false
        let r := { w.record with
          plan := plan, state := state, reminded := w.record.reminded || decide remind
          notices := { w.record.notices with
            defaulted := w.record.notices.defaulted || decide defaulted
            remind := w.record.notices.remind || decide remind } }
        answered
          { w.engine with
            plans := plans
            accounts := w.engine.accounts.put w.slot { r with due := r.dueFor new }
            expiry := rekeyed w.engine.expiry w.record.kit w.slot (r.dueFor new)
            notices := if defaulted ∨ remind then joined else w.engine.notices } .done [stateField (some state)]))

/-- RETIRE KIT: with FORCE clear a record with entries is refused with ENTRIES PENDING; otherwise the record leaves its slot,
the directory, the expiry index, the notice list and its plan's count, each entry still pending is reversed against its agent
and returns to the pool, and the response carries what the record held (R21, R22; the width of the total amount is log
entry 10). -/
def Obligations.RetireKitRemovesRecord : Prop :=
  ∀ (s : State) (kit force : Nat) (w : Work),
    s.grantedRequest = some (.retireKit kit force) → 1 ≤ kit → kit ≤ 4294967294 → force ≤ 1 →
    s.engine.find kit = .found w →
    let w := w.current s.instant
    (force = 0 → w.record.pending ≠ [] →
      exec .retireKit s = .next (s.responded w.commit ⟨0x07, .entriesPending, [wordField kit]⟩)) ∧
    (force = 1 ∨ w.record.pending = [] →
      ∃ e : Engine,
        exec .retireKit s = .next (s.responded e ⟨0x07, .done,
          [wordField kit, pairField w.record.notices.bits, wordField w.record.offer.number,
            byteField w.record.pending.length, moneyField (w.record.pending.map Entry.amount).sum]⟩) ∧
        e.accounts = w.engine.accounts.erase w.slot ∧ e.directory = w.engine.directory.erase w.record.kit ∧
        (∀ n, e.plans.get n = if n = w.record.plan then
            (w.engine.plans.get n).map (fun p => { p with refCount := p.refCount - 1 }) else w.engine.plans.get n) ∧
        e.expiry = dueRemove w.record.kit w.engine.expiry ∧
        (∀ k, k ∈ e.notices ↔ k ∈ w.engine.notices ∧ k ≠ w.record.kit) ∧
        e.poolFree = w.engine.poolFree + w.record.pending.length ∧
        (∀ i, i ∈ e.settlement ↔ i ∈ w.engine.settlement ∧
          ¬(i.kit = w.record.kit ∧ i.reference ∈ w.record.pending.map Entry.reference)) ∧
        (∀ n, e.agents.get n = (w.engine.agents.get n).map (fun a =>
          let mine := w.record.pending.filter (fun en => en.agent == n)
          if mine = [] then a else { a with
            outstanding := a.outstanding - amountSum mine
            reversed := min (a.reversed + amountSum mine) 281474976710655 })))

/-! ## Requests on plans (chapter 3) -/

/-- DEFINE PLAN: BAD FIELD when the number or a field is out of its range of R39 or the renew step is above the lease, WRONG
STATE when the plan is DEFINED, and otherwise every field written and the count 0 (R39, R41 to R43; for the claw-back byte
log entry 11). -/
def Obligations.DefinePlanWritesPlan : Prop :=
  ∀ (s : State) (plan : Nat) (p : PlanNums),
    s.grantedRequest = some (.definePlan plan p) →
    let good := plan ≤ 31 ∧ (1 ≤ p.rate ∧ p.rate ≤ 10000000) ∧ p.price ≤ 1000000000000 ∧
      (1 ≤ p.minimum ∧ p.minimum ≤ 2000000000) ∧ (1 ≤ p.capDays ∧ p.capDays ≤ 366) ∧
      (capModeOf p.capMode).isSome = true ∧ (roundingOf p.rounding).isSome = true ∧
      (60 ≤ p.lease ∧ p.lease ≤ 10080) ∧ (15 ≤ p.renew ∧ p.renew ≤ 1440) ∧ p.lead ≤ 10080 ∧
      (1 ≤ p.window ∧ p.window ≤ 180) ∧ (flagOf p.clawBack).isSome = true ∧ p.renew ≤ p.lease
    (¬good →
      exec .definePlan s = .next (s.responded s.engine ⟨0x10, .badField, [byteField plan]⟩)) ∧
    (good → (s.engine.plans.get plan).isSome = true →
      exec .definePlan s = .next (s.responded s.engine ⟨0x10, .wrongState, [byteField plan]⟩)) ∧
    (∀ cap rounding clawBack, good → s.engine.plans.get plan = none →
      capModeOf p.capMode = some cap → roundingOf p.rounding = some rounding → flagOf p.clawBack = some clawBack →
      exec .definePlan s = .next (s.responded
        { s.engine with
          plans := s.engine.plans.put plan
            { rate := p.rate, price := p.price, minimum := p.minimum, capDays := p.capDays, capMode := cap,
              rounding := rounding, lease := p.lease, renew := p.renew, lead := p.lead, window := p.window,
              clawBack := clawBack, refCount := 0 } }
        ⟨0x10, .done, [byteField plan]⟩))

/-- AMEND PLAN: BAD FIELD for a number, change set or carried field out of range, UNKNOWN PLAN for a FREE plan, BAD FIELD for
a renew step that would pass the lease, PLAN IN USE for a changed restricted field while records name the plan; otherwise of
the eleven fields those carried with a new value are written and the others kept, with the reference count, and the response
carries the plan as it then stands (R44, R45, R192; for the claw-back byte log entry 11). -/
def Obligations.AmendPlanWritesFields : Prop :=
  ∀ (s : State) (plan changes : Nat) (p : PlanNums),
    s.grantedRequest = some (.amendPlan plan changes p) →
    let good := plan ≤ 31 ∧ changes < 2048 ∧ (changes.testBit 0 = true → 1 ≤ p.rate ∧ p.rate ≤ 10000000) ∧
      (changes.testBit 1 = true → p.price ≤ 1000000000000) ∧
      (changes.testBit 2 = true → 1 ≤ p.minimum ∧ p.minimum ≤ 2000000000) ∧
      (changes.testBit 3 = true → 1 ≤ p.capDays ∧ p.capDays ≤ 366) ∧
      (changes.testBit 4 = true → (capModeOf p.capMode).isSome = true) ∧
      (changes.testBit 5 = true → (roundingOf p.rounding).isSome = true) ∧
      (changes.testBit 6 = true → 60 ≤ p.lease ∧ p.lease ≤ 10080) ∧
      (changes.testBit 7 = true → 15 ≤ p.renew ∧ p.renew ≤ 1440) ∧
      (changes.testBit 8 = true → p.lead ≤ 10080) ∧
      (changes.testBit 9 = true → 1 ≤ p.window ∧ p.window ≤ 180) ∧
      (changes.testBit 10 = true → (flagOf p.clawBack).isSome = true)
    let refused := fun result => Host.Outcome.next (s.responded s.engine ⟨0x11, result, [byteField plan]⟩)
    (¬good → exec .amendPlan s = refused .badField) ∧
    (good → s.engine.plans.get plan = none → exec .amendPlan s = refused .unknownPlan) ∧
    (∀ held new, good → s.engine.plans.get plan = some held →
      new.rate = (if changes.testBit 0 then p.rate else held.rate) →
      new.price = (if changes.testBit 1 then p.price else held.price) →
      new.minimum = (if changes.testBit 2 then p.minimum else held.minimum) →
      new.capDays = (if changes.testBit 3 then p.capDays else held.capDays) →
      some new.capMode = (if changes.testBit 4 then capModeOf p.capMode else some held.capMode) →
      some new.rounding = (if changes.testBit 5 then roundingOf p.rounding else some held.rounding) →
      new.lease = (if changes.testBit 6 then p.lease else held.lease) →
      new.renew = (if changes.testBit 7 then p.renew else held.renew) →
      new.lead = (if changes.testBit 8 then p.lead else held.lead) →
      new.window = (if changes.testBit 9 then p.window else held.window) →
      some new.clawBack = (if changes.testBit 10 then flagOf p.clawBack else some held.clawBack) →
      new.refCount = held.refCount →
      let restricted := new.price ≠ held.price ∨ new.rounding ≠ held.rounding ∨ new.capDays ≠ held.capDays ∨
        new.capMode ≠ held.capMode ∨ new.window ≠ held.window
      (new.lease < new.renew → exec .amendPlan s = refused .badField) ∧
      (new.renew ≤ new.lease → 0 < held.refCount → restricted → exec .amendPlan s = refused .planInUse) ∧
      (new.renew ≤ new.lease → held.refCount = 0 ∨ ¬restricted →
        exec .amendPlan s = .next (s.responded { s.engine with plans := s.engine.plans.put plan new } ⟨0x11, .done,
          [byteField plan, wordField new.rate, moneyField new.price, wordField new.minimum, pairField new.capDays,
            byteField new.capMode.code, byteField new.rounding.code, pairField new.lease, pairField new.renew,
            pairField new.lead, byteField new.window, flagField new.clawBack]⟩)))

/-- READ PLAN changes nothing of the tables and reports every field and the count, or refuses (R46). -/
def Obligations.ReadPlanReports : Prop :=
  ∀ (s : State) (plan : Nat), s.grantedRequest = some (.readPlan plan) →
    (31 < plan → exec .readPlan s = .next (s.responded s.engine ⟨0x12, .badField, [byteField plan]⟩)) ∧
    (plan ≤ 31 → s.engine.plans.get plan = none →
      exec .readPlan s = .next (s.responded s.engine ⟨0x12, .unknownPlan, [byteField plan]⟩)) ∧
    (∀ p, plan ≤ 31 → s.engine.plans.get plan = some p →
      exec .readPlan s = .next (s.responded s.engine ⟨0x12, .done,
        [byteField plan, wordField p.rate, moneyField p.price, wordField p.minimum, pairField p.capDays,
          byteField p.capMode.code, byteField p.rounding.code, pairField p.lease, pairField p.renew, pairField p.lead,
          byteField p.window, flagField p.clawBack, pairField p.refCount]⟩))

/-- RELEASE PLAN: its three refusals in their order, and the slot made FREE; and while a plan is FREE, ENROL KIT and MOVE
PLAN naming it, with their fields in range (and the kit found, for MOVE PLAN), are refused with UNKNOWN PLAN (R47). -/
def Obligations.ReleasePlanFreesSlot : Prop :=
  (∀ (s : State) (plan : Nat), s.grantedRequest = some (.releasePlan plan) →
    (31 < plan → exec .releasePlan s = .next (s.responded s.engine ⟨0x13, .badField, [byteField plan]⟩)) ∧
    (plan ≤ 31 → s.engine.plans.get plan = none →
      exec .releasePlan s = .next (s.responded s.engine ⟨0x13, .unknownPlan, [byteField plan]⟩)) ∧
    (∀ p, plan ≤ 31 → s.engine.plans.get plan = some p → 0 < p.refCount →
      exec .releasePlan s = .next (s.responded s.engine ⟨0x13, .planInUse, [byteField plan]⟩)) ∧
    (∀ p, plan ≤ 31 → s.engine.plans.get plan = some p → p.refCount = 0 →
      exec .releasePlan s = .next (s.responded { s.engine with plans := s.engine.plans.erase plan }
        ⟨0x13, .done, [byteField plan]⟩) ∧
      (s.engine.plans.erase plan).get plan = none)) ∧
  (∀ (s : State) (kit plan key base : Nat), s.grantedRequest = some (.enrolKit kit plan key base) →
    1 ≤ kit → kit ≤ 4294967294 → plan ≤ 31 → base ≤ 4294967294 → s.engine.plans.get plan = none →
      exec .enrolKit s = .next (s.responded s.engine ⟨0x01, .unknownPlan, [wordField kit]⟩)) ∧
  (∀ (s : State) (kit plan : Nat) (w : Work), s.grantedRequest = some (.movePlan kit plan) →
    1 ≤ kit → kit ≤ 4294967294 → plan ≤ 31 → s.engine.find kit = .found w → s.engine.plans.get plan = none →
      exec .movePlan s = .next (s.responded s.engine ⟨0x06, .unknownPlan, [wordField kit]⟩))

/-! ## Money (chapters 3 and 4) -/

/-- The credit arithmetic unit, for any plan with a rate above 0: what an accepted conversion returns accounts for the whole
amount; under CARRY no step of money is lost; the limit of the cap is kept; below the limit the converted minutes of R52 are
credited for the whole amount, CARRY leaving off the part-minute and the two others taking the nearest minute, a tie the
even one or the one above; at the limit under CLAMP the accepted amount is the smallest that pays for the minutes up to
the limit; and CAP EXCEEDED is the outcome exactly when R53 and R54 say so (R51 to R54). -/
def Obligations.ConversionIsExact : Prop :=
  ∀ (p : Plan) (amount residueIn base t : Nat), 0 < p.rate →
    let numerator := amount * 1440 + residueIn
    let q := numerator / p.rate
    let r := numerator % p.rate
    let m := match p.rounding with
      | .carry => q
      | .nearestEven => if 2 * r < p.rate ∨ (2 * r = p.rate ∧ q % 2 = 0) then q else q + 1
      | .halfUp => if 2 * r < p.rate then q else q + 1
    let limit := t + p.capDays * 1440
    (convert p amount residueIn base t = none ↔ limit < base + m ∧ (p.capMode = .refuse ∨ limit ≤ base)) ∧
    ∀ c, convert p amount residueIn base t = some c →
      c.accepted + c.surplus = amount ∧ base + c.minutes ≤ limit ∧
      (p.rounding = .carry → c.minutes * p.rate + c.remainder = c.accepted * 1440 + residueIn) ∧
      (p.rounding ≠ .carry → c.remainder = 0) ∧
      (base + m ≤ limit → c.minutes = m ∧ c.accepted = amount) ∧
      (limit < base + m → c.minutes = limit - base ∧ c.minutes * p.rate ≤ c.accepted * 1440 + residueIn ∧
        ∀ a < c.accepted, a * 1440 + residueIn < c.minutes * p.rate)

/-- PAY on a record as bringing current left it: the refusals of R67 from step 4 on, in their order, each leaving the tables
as bringing current left them (R34, R67). -/
def Obligations.PayRefuses : Prop :=
  ∀ (s : State) (kit amount : Nat) (w : Work),
    s.grantedRequest = some (.pay kit amount) → 1 ≤ kit → kit ≤ 4294967294 → s.engine.find kit = .found w →
    let w := w.current s.instant
    let refused := fun result => Host.Outcome.next (s.responded w.commit ⟨0x20, result, [wordField kit]⟩)
    (s.calendar.state = .unset → exec .pay s = refused .timeUnset) ∧
    (s.calendar.state = .known → w.record.state = .owned → exec .pay s = refused .wrongState) ∧
    (s.calendar.state = .known → w.record.state ≠ .owned → amount < w.plan.minimum →
      exec .pay s = refused .belowMinimum) ∧
    (s.calendar.state = .known → w.record.state ≠ .owned → w.plan.minimum ≤ amount →
      ¬(0 < w.plan.price ∧ w.plan.price ≤ w.record.confirmed + amount) →
      convert w.plan amount (if w.plan.rounding = .carry then w.record.residue else 0) (w.record.base s.instant)
        s.instant = none →
      exec .pay s = refused .capExceeded)

/-- PAY accepted. One that completes the price makes the record OWNED, nothing is converted, and the response tells how
much of the amount reached the price (R10, R68, R70). Any other is converted: credit runs from the base on by the credited
minutes, the residue and the confirmed total are written, reminder raised falls to "no" beyond the lead, the state is recomputed,
REMIND is raised when the record ends ACTIVE within the lead with no reminder raised, and the due entry is keyed anew; no
entry, pool entry or agent is touched (R9, R55, R57, R69, R70, R114). -/
def Obligations.PayIsAccepted : Prop :=
  (∀ (s : State) (kit amount : Nat) (w : Work),
      s.grantedRequest = some (.pay kit amount) → 1 ≤ kit → kit ≤ 4294967294 → s.engine.find kit = .found w →
      let w := w.current s.instant
      s.calendar.state = .known → w.record.state ≠ .owned → w.plan.minimum ≤ amount →
      0 < w.plan.price → w.plan.price ≤ w.record.confirmed + amount →
      exec .pay s = .next (s.responded
        { w.engine with
          accounts := w.engine.accounts.put w.slot { w.record with
            state := .owned, confirmed := w.plan.price, reason := none, due := none
            notices := { w.record.notices with owned := true } }
          expiry := dueRemove w.record.kit w.engine.expiry
          notices := if w.record.notices = .clear then w.engine.notices ++ [w.record.kit] else w.engine.notices }
        ⟨0x20, .done,
          [wordField kit, wordField 0, wordField (w.plan.price - w.record.confirmed), wordField 0,
            wordField (amount - (w.plan.price - w.record.confirmed)), minuteField w.record.paid, stateField (some .owned),
            moneyField w.plan.price]⟩)) ∧
  (∀ (s : State) (kit amount : Nat) (w : Work) (c : Conversion),
      s.grantedRequest = some (.pay kit amount) → 1 ≤ kit → kit ≤ 4294967294 → s.engine.find kit = .found w →
      let w := w.current s.instant
      let t := s.instant
      let base := match w.record.paid with
        | some p => if t < p then p else t
        | none => t
      s.calendar.state = .known → w.record.state ≠ .owned → w.plan.minimum ≤ amount →
      ¬(0 < w.plan.price ∧ w.plan.price ≤ w.record.confirmed + amount) →
      convert w.plan amount (if w.plan.rounding = .carry then w.record.residue else 0) base t = some c →
      let paid := base + c.minutes
      let state := if w.record.state = .suspended then .suspended else creditState (some paid) w.plan.window t
      let reminded := w.record.reminded && decide (paid - t ≤ w.plan.lead)
      let remind := state = .active ∧ 0 < w.plan.lead ∧ paid - t ≤ w.plan.lead ∧ reminded = false
      let confirmed := if w.plan.price = 0 then min (w.record.confirmed + c.accepted) 281474976710655
        else w.record.confirmed + c.accepted
      let r := { w.record with
        paid := some paid, state := state, residue := c.remainder, confirmed := confirmed
        reminded := reminded || decide remind
        notices := { w.record.notices with remind := w.record.notices.remind || decide remind } }
      exec .pay s = .next (s.responded
        { w.engine with
          accounts := w.engine.accounts.put w.slot { r with due := r.dueFor w.plan }
          expiry := rekeyed w.engine.expiry w.record.kit w.slot (r.dueFor w.plan)
          notices := if remind ∧ w.record.notices = .clear then w.engine.notices ++ [w.record.kit]
            else w.engine.notices }
        ⟨0x20, .done,
          [wordField kit, wordField c.minutes, wordField c.accepted, wordField c.surplus, wordField 0,
            minuteField (some paid), stateField (some state), moneyField confirmed]⟩))

/-- CONFIRM on a record as bringing current left it: UNKNOWN REFERENCE, or the entry leaves the record, the settlement index
and the pool, its agent's money becomes settled money, and the record is credited, made OWNED or, when it was OWNED already,
left as it was; becoming OWNED raises OWNED, with which a record whose set was empty joins the notice list, and otherwise
set, list and suspend reason stand (R10, R76, R78, R79, R114). -/
def Obligations.ConfirmSettlesEntry : Prop :=
  ∀ (s : State) (kit reference : Nat) (w : Work),
    s.grantedRequest = some (.confirm kit reference) → 1 ≤ kit → kit ≤ 4294967294 → reference ≠ 0 →
    s.engine.find kit = .found w →
    let w := w.current s.instant
    (findEntry reference w.record.pending = none →
      exec .confirm s = .next (s.responded w.commit ⟨0x21, .unknownReference, [wordField kit]⟩)) ∧
    (∀ en, findEntry reference w.record.pending = some en →
      ∃ (w' : Work) (beyond : Nat),
        exec .confirm s = .next (s.responded w'.commit ⟨0x21, .done,
          [wordField kit, wordField reference, byteField en.agent, wordField en.amount, wordField beyond,
            stateField (some w'.record.state), moneyField w'.record.confirmed]⟩) ∧
        w.Same w' ∧ w'.record.pending = w.record.pending.filter (fun x => x.reference != reference) ∧
        w'.engine.poolFree = w.engine.poolFree + 1 ∧
        (∀ i, i ∈ w'.engine.settlement ↔
          i ∈ w.engine.settlement ∧ ¬(i.kit = w.record.kit ∧ i.reference = reference)) ∧
        (∀ n, w'.engine.agents.get n = if n = en.agent then
            (w.engine.agents.get n).map (fun a => { a with
              outstanding := a.outstanding - en.amount, settled := min (a.settled + en.amount) 281474976710655 })
          else w.engine.agents.get n) ∧
        w'.record.paid = w.record.paid ∧ w'.record.reminded = w.record.reminded ∧
        (w.record.state = .owned → beyond = en.amount ∧ w'.engine.expiry = w.engine.expiry ∧
          w'.engine.notices = w.engine.notices ∧ w'.record = { w.record with pending := w'.record.pending }) ∧
        (w.record.state ≠ .owned →
          w'.record.residue = min (w.record.residue + en.remainder) 14399998560 ∧
          (0 < w.plan.price → w.plan.price ≤ w.record.confirmed + en.amount →
            beyond = w.record.confirmed + en.amount - w.plan.price ∧ w'.record.confirmed = w.plan.price ∧
            w'.record.state = .owned ∧ w'.record.reason = none ∧ w'.record.due = none ∧
            w'.engine.expiry = dueRemove w.record.kit w.engine.expiry ∧
            w'.record.notices = { w.record.notices with owned := true } ∧
            w'.engine.notices =
              if w.record.notices = .clear then w.engine.notices ++ [w.record.kit] else w.engine.notices) ∧
          (¬(0 < w.plan.price ∧ w.plan.price ≤ w.record.confirmed + en.amount) →
            beyond = 0 ∧ w'.record.state = w.record.state ∧ w'.record.reason = w.record.reason ∧
            w'.record.due = w.record.due ∧ w'.engine.expiry = w.engine.expiry ∧
            w'.record.notices = w.record.notices ∧ w'.engine.notices = w.engine.notices ∧
            w'.record.confirmed = (if w.plan.price = 0 then min (w.record.confirmed + en.amount) 281474976710655
              else w.record.confirmed + en.amount))))

/-- REVERSE on a record as bringing current left it: UNKNOWN REFERENCE, or the entry leaves the record, the settlement index
and the pool, its agent's money becomes reversed money, and on a record that is not OWNED paid-through falls by the entry's
minutes, OVERHANG is raised when the offered RUN then reaches beyond it, the state is recomputed, LAPSED, DEFAULTED and
REMIND with reminder raised follow R36 against the state before, and the due entry is keyed anew (R77, R78, R80, R114; the 0
minutes of an OWNED record and the width of the overhang are log entry 10). -/
def Obligations.ReverseTakesMinutesBack : Prop :=
  ∀ (s : State) (kit reference : Nat) (w : Work),
    s.grantedRequest = some (.reverse kit reference) → 1 ≤ kit → kit ≤ 4294967294 → reference ≠ 0 →
    s.engine.find kit = .found w →
    let t := s.instant
    let w := w.current t
    (findEntry reference w.record.pending = none →
      exec .reverse s = .next (s.responded w.commit ⟨0x22, .unknownReference, [wordField kit]⟩)) ∧
    (∀ en, findEntry reference w.record.pending = some en →
      ∃ agents : Table Agent,
        (∀ n, agents.get n = if n = en.agent then
            (w.engine.agents.get n).map (fun a => { a with
              outstanding := a.outstanding - en.amount, reversed := min (a.reversed + en.amount) 281474976710655 })
          else w.engine.agents.get n) ∧
        let rest := w.record.pending.filter (fun x => x.reference != reference)
        let e := { w.engine with
          agents := agents, poolFree := w.engine.poolFree + 1
          settlement := w.engine.settlement.filter (fun i => !(i.kit == w.record.kit && i.reference == reference)) }
        let answered := fun (e : Engine) (minutes : Nat) (r : Record) => exec .reverse s = .next (s.responded
          { e with accounts := e.accounts.put w.slot r } ⟨0x22, .done,
            [wordField kit, wordField reference, byteField en.agent, wordField en.amount, wordField minutes,
              minuteField r.paid, stateField (some r.state), wordField r.overhang]⟩)
        (w.record.state = .owned → answered e 0 { w.record with pending := rest }) ∧
        (w.record.state ≠ .owned →
          let before := w.record.state
          let paid := w.record.paid.map (fun p => p - en.minutes)
          let state := if before = .suspended then .suspended else creditState paid w.plan.window t
          let overhang := 0 < { w.record with paid := paid }.overhang
          let lapsed := before = .active ∧ (state = .lapsed ∨ state = .defaulted)
          let defaulted := (before = .active ∨ before = .lapsed) ∧ state = .defaulted
          let remind := state = .active ∧ 0 < w.plan.lead ∧ paid.getD 0 - t ≤ w.plan.lead ∧ w.record.reminded = false
          let r := { w.record with
            pending := rest, paid := paid, state := state, reminded := w.record.reminded || decide remind
            notices := { w.record.notices with
              overhang := w.record.notices.overhang || decide overhang
              lapsed := w.record.notices.lapsed || decide lapsed
              defaulted := w.record.notices.defaulted || decide defaulted
              remind := w.record.notices.remind || decide remind } }
          answered
            { e with
              expiry := rekeyed e.expiry w.record.kit w.slot (r.dueFor w.plan)
              notices := if w.record.notices = .clear ∧ (overhang ∨ lapsed ∨ defaulted ∨ remind)
                then e.notices ++ [w.record.kit] else e.notices }
            en.minutes { r with due := r.dueFor w.plan }))

/-! ## Requests on agents (chapter 5) -/

/-- OPEN AGENT: BAD FIELD, WRONG STATE, or the slot written with totals of 0 and the watermark clear (R94, R95). AMEND
AGENT: BAD FIELD, UNKNOWN AGENT, or the fields carried with a new value written, the others, the state, the money and the
watermark kept, and the limit, policy, window and outstanding reported (R96, R97, R192). -/
def Obligations.OpenAndAmendAgent : Prop :=
  (∀ (s : State) (agent : Nat) (f : AgentNums), s.grantedRequest = some (.openAgent agent f) →
      let good := (1 ≤ agent ∧ agent ≤ 64) ∧ f.limit ≤ 2000000000 ∧ (1 ≤ f.window ∧ f.window ≤ 168) ∧
        (policyOf f.policy).isSome = true
      (¬good → exec .openAgent s = .next (s.responded s.engine ⟨0x30, .badField, [byteField agent]⟩)) ∧
      (good → (s.engine.agents.get agent).isSome = true →
        exec .openAgent s = .next (s.responded s.engine ⟨0x30, .wrongState, [byteField agent]⟩)) ∧
      (∀ policy, good → s.engine.agents.get agent = none → policyOf f.policy = some policy →
        exec .openAgent s = .next (s.responded
          { s.engine with
            agents := s.engine.agents.put agent
              { barred := false, key := BitVec.ofNat 32 f.key, limit := f.limit, outstanding := 0, settled := 0,
                reversed := 0, policy := policy, window := f.window, watermark := false } }
          ⟨0x30, .done, [byteField agent]⟩))) ∧
  (∀ (s : State) (agent changes : Nat) (f : AgentNums),
      s.grantedRequest = some (.amendAgent agent changes f) →
      let good := (1 ≤ agent ∧ agent ≤ 64) ∧ changes < 16 ∧ (changes.testBit 1 = true → f.limit ≤ 2000000000) ∧
        (changes.testBit 2 = true → (policyOf f.policy).isSome = true) ∧
        (changes.testBit 3 = true → 1 ≤ f.window ∧ f.window ≤ 168)
      (¬good → exec .amendAgent s = .next (s.responded s.engine ⟨0x31, .badField, [byteField agent]⟩)) ∧
      (good → s.engine.agents.get agent = none →
        exec .amendAgent s = .next (s.responded s.engine ⟨0x31, .unknownAgent, [byteField agent]⟩)) ∧
      (∀ (a : Agent) (policy : Policy), good → s.engine.agents.get agent = some a →
        some policy = (if changes.testBit 2 then policyOf f.policy else some a.policy) →
        let new := { a with
          key := if changes.testBit 0 then BitVec.ofNat 32 f.key else a.key
          limit := if changes.testBit 1 then f.limit else a.limit
          policy := policy
          window := if changes.testBit 3 then f.window else a.window }
        exec .amendAgent s = .next (s.responded { s.engine with agents := s.engine.agents.put agent new }
          ⟨0x31, .done, [byteField agent, wordField new.limit, byteField policy.code, byteField new.window,
            moneyField a.outstanding]⟩)))

/-- READ, BAR, UNBAR and CLOSE AGENT are refused with BAD FIELD when the agent number is outside 1 to 64 and with UNKNOWN
AGENT when the agent is CLOSED, and change nothing of the tables then (R34, R89, R94, R98 to R100). READ AGENT changes
nothing of the tables and reports the slot, the headroom, the count of the agent's entries and the deadline of the first
of them in the settlement index (R98). -/
def Obligations.ReadAgentAndRefusals : Prop :=
  (∀ (s : State) (agent : Nat) (c : Instr) (r : Request),
      s.grantedRequest = some r →
      ((c = .readAgent ∧ r = .readAgent agent) ∨ (c = .barAgent ∧ r = .barAgent agent) ∨
        (c = .unbarAgent ∧ r = .unbarAgent agent) ∨ (c = .closeAgent ∧ r = .closeAgent agent)) →
      (¬(1 ≤ agent ∧ agent ≤ 64) →
        exec c s = .next (s.responded s.engine ⟨BitVec.ofNat 8 r.code, .badField, [byteField agent]⟩)) ∧
      (1 ≤ agent → agent ≤ 64 → s.engine.agents.get agent = none →
        exec c s = .next (s.responded s.engine ⟨BitVec.ofNat 8 r.code, .unknownAgent, [byteField agent]⟩))) ∧
  (∀ (s : State) (agent : Nat) (a : Agent), s.grantedRequest = some (.readAgent agent) → 1 ≤ agent → agent ≤ 64 →
      s.engine.agents.get agent = some a →
      let mine := s.engine.settlement.filter (fun i =>
        (s.engine.recordOf i.kit).any (fun r => (findEntry i.reference r.2.pending).any (fun en => en.agent == agent)))
      exec .readAgent s = .next (s.responded s.engine ⟨0x32, .done,
        [byteField agent, byteField (if a.barred then 2 else 1), wordField a.limit, byteField a.policy.code,
          byteField a.window, moneyField a.outstanding, moneyField (a.limit - a.outstanding), pairField mine.length,
          minuteField (mine.head?.map SettleItem.deadline), moneyField a.settled, moneyField a.reversed,
          flagField a.watermark]⟩))

/-- BAR AGENT and UNBAR AGENT move an OPEN agent to BARRED and a BARRED one to OPEN, change nothing else of the tables,
and are refused with WRONG STATE when the agent is there already (R99). CLOSE AGENT: ENTRIES PENDING while outstanding is
above 0, otherwise the totals and the watermark reported and the slot made CLOSED (R100). -/
def Obligations.BarUnbarAndCloseAgent : Prop :=
  (∀ (s : State) (agent : Nat) (a : Agent), 1 ≤ agent → agent ≤ 64 → s.engine.agents.get agent = some a →
      (s.grantedRequest = some (.barAgent agent) →
        (a.barred = true → exec .barAgent s = .next (s.responded s.engine ⟨0x33, .wrongState, [byteField agent]⟩)) ∧
        (a.barred = false → exec .barAgent s = .next (s.responded
          { s.engine with agents := s.engine.agents.put agent { a with barred := true } }
          ⟨0x33, .done, [byteField agent, byteField 2, moneyField a.outstanding]⟩))) ∧
      (s.grantedRequest = some (.unbarAgent agent) →
        (a.barred = false → exec .unbarAgent s = .next (s.responded s.engine ⟨0x34, .wrongState, [byteField agent]⟩)) ∧
        (a.barred = true → exec .unbarAgent s = .next (s.responded
          { s.engine with agents := s.engine.agents.put agent { a with barred := false } }
          ⟨0x34, .done, [byteField agent, byteField 1, moneyField a.outstanding]⟩)))) ∧
  (∀ (s : State) (agent : Nat) (a : Agent), s.grantedRequest = some (.closeAgent agent) → 1 ≤ agent → agent ≤ 64 →
      s.engine.agents.get agent = some a →
      (0 < a.outstanding →
        exec .closeAgent s = .next (s.responded s.engine ⟨0x35, .entriesPending, [byteField agent]⟩)) ∧
      (a.outstanding = 0 →
        exec .closeAgent s = .next (s.responded { s.engine with agents := s.engine.agents.erase agent } ⟨0x35, .done,
          [byteField agent, moneyField a.settled, moneyField a.reversed, flagField a.watermark]⟩) ∧
        (s.engine.agents.erase agent).get agent = none))

/-- CLEAR WATERMARK: BAD FIELD, UNKNOWN AGENT, or the watermark made clear, set or not, and the outstanding and the limit
reported (R101). -/
def Obligations.ClearWatermarkClears : Prop :=
  ∀ (s : State) (agent : Nat), s.grantedRequest = some (.clearWatermark agent) →
    (¬(1 ≤ agent ∧ agent ≤ 64) →
      exec .clearWatermark s = .next (s.responded s.engine ⟨0x36, .badField, [byteField agent]⟩)) ∧
    (1 ≤ agent → agent ≤ 64 → s.engine.agents.get agent = none →
      exec .clearWatermark s = .next (s.responded s.engine ⟨0x36, .unknownAgent, [byteField agent]⟩)) ∧
    (∀ a, 1 ≤ agent → agent ≤ 64 → s.engine.agents.get agent = some a →
      exec .clearWatermark s = .next (s.responded
        { s.engine with agents := s.engine.agents.put agent { a with watermark := false } }
        ⟨0x36, .done, [byteField agent, moneyField a.outstanding, wordField a.limit]⟩))

/-! ## Requests on time and notices (chapter 6) -/

/-- TAKE NOTICES, the notice list being exact (as NoticeListStaysExact keeps it): BAD FIELD for a count outside 1 to 8;
otherwise the records at the front of the list, up to the count, are reported in list order with their flags, stored state
and paid-through, leave the list, and have their flags emptied; the others keep theirs (R116, R117). -/
def Obligations.TakeNoticesCollects : Prop :=
  ∀ (s : State) (count : Nat), s.grantedRequest = some (.takeNotices count) → s.engine.noticesWf →
    (¬(1 ≤ count ∧ count ≤ 8) → exec .takeNotices s = .next (s.responded s.engine ⟨0x40, .badField, []⟩)) ∧
    (1 ≤ count → count ≤ 8 →
      let taken := s.engine.notices.take count
      ∃ e : Engine,
        exec .takeNotices s = .next (s.responded e ⟨0x40, .done,
          [wordField s.instant, pairField (s.engine.notices.drop count).length, byteField taken.length]
          ++ taken.flatMap (fun k => ((s.engine.recordOf k).map (fun r => [wordField k, pairField r.2.notices.bits,
            stateField (some r.2.state), minuteField r.2.paid])).getD [])⟩) ∧
        e = { s.engine with accounts := e.accounts, notices := s.engine.notices.drop count } ∧
        ∀ slot, e.accounts.get slot = (s.engine.accounts.get slot).map (fun r =>
          if r.kit ∈ taken then { r with notices := .clear } else r))

/-- NEXT DUE, the expiry index being exact (as ExpiryIndexStaysExact keeps it), changes nothing of the tables: BAD FIELD
for a count outside 1 to 8; otherwise the entries of the expiry index after the start position, in index order and up to
the count, and whether more follow (R116, R119). TABLE SUMMARY changes nothing of the tables and reports the counts and
the two index heads (R116, R121). -/
def Obligations.NextDueAndTableSummary : Prop :=
  (∀ (s : State) (start kit count : Nat), s.grantedRequest = some (.nextDue start kit count) → s.engine.expiryWf →
      (¬(1 ≤ count ∧ count ≤ 8) → exec .nextDue s = .next (s.responded s.engine ⟨0x41, .badField, []⟩)) ∧
      (1 ≤ count → count ≤ 8 →
        let rest := s.engine.expiry.filter (fun d => start < d.instant ∨ (d.instant = start ∧ kit < d.kit))
        exec .nextDue s = .next (s.responded s.engine ⟨0x41, .done,
          [wordField s.instant, flagField (decide (count < rest.length)), byteField (rest.take count).length]
          ++ (rest.take count).flatMap (fun d => ((s.engine.recordOf d.kit).map (fun r => [wordField d.kit,
            byteField d.kind.code, wordField d.instant, stateField (some r.2.state), minuteField r.2.paid])).getD [])⟩))) ∧
  (∀ s : State, s.grantedRequest = some .tableSummary →
      let e := s.engine
      let known := s.calendar.state = .known
      let states := fun st => pairField (e.accounts.countP (fun a => a.2.state == st))
      exec .tableSummary s = .next (s.responded e ⟨0x42, .done,
        [wordField s.instant, byteField s.calendar.state.code, pairField e.accounts.length,
          pairField (4096 - e.accounts.length), states .enrolled, states .active, states .lapsed, states .defaulted,
          states .suspended, states .owned, pairField e.expiry.length,
          pairField (if known then e.expiry.countP (fun d => decide (d.instant ≤ s.instant)) else 0),
          nameField (e.expiry.head?.map DueItem.kit), byteField ((e.expiry.head?.map (fun d => d.kind.code)).getD 0),
          minuteField (e.expiry.head?.map DueItem.instant), pairField e.settlement.length,
          pairField (if known then e.settlement.countP (fun i => decide (i.deadline ≤ s.instant)) else 0),
          nameField (e.settlement.head?.map SettleItem.kit), nameField (e.settlement.head?.map SettleItem.reference),
          minuteField (e.settlement.head?.map SettleItem.deadline), pairField e.poolFree,
          flagField (decide (e.poolFree < 64)), pairField e.notices.length, byteField e.plans.length,
          byteField (e.agents.countP (fun a => !a.2.barred)), byteField (e.agents.countP (fun a => a.2.barred)),
          byteField (e.agents.countP (fun a => a.2.watermark))]⟩))

/-! ## The calendar (chapter 8) -/

/-- READ TIME, in either state of the calendar, changes nothing of the tables and the calendar and reports the calendar as it
stands at the take, the sub-second count as 0 while the regulation hold runs (R149, R151, R152). -/
def Obligations.ReadTimeReports : Prop :=
  ∀ s : State, s.grantedRequest = some .readTime →
    let c := s.calendar
    exec .readTime s = .next (s.responded s.engine ⟨0x50, .done,
      [byteField c.state.code, pairField c.time.year, byteField c.time.month, byteField c.time.day, byteField c.time.hour,
        byteField c.time.minute, byteField c.time.second, byteField (dayOfWeek c.districtMinute),
        pairField (if 0 < c.hold then 0 else c.sub), wordField c.districtMinute, regulationField c.regulation]⟩)

/-- SET TIME and its load: BAD FIELD for a date or time that does not exist; while the calendar is UNSET the STEP byte is not
read; while it is SET, BAD FIELD for a STEP byte that is neither 0 nor 1, and STEP TOO LARGE for a move of more than 900
seconds with STEP clear; otherwise the engine holds the request until the load arrives, which writes the time and its
district minute, clears the sub-second count and the hold, makes the calendar SET, keeps the regulation value, raises one
minute event when the minute is later, and is answered with the state and time read at the take and a calendar report (R153,
R154; for the STEP byte log entry 11, for the state and time log entry 10, for the response lost at its delivery while a
restart waits log entry 13, for the count of minute events log entry 17). -/
def Obligations.SetTimeLoadsCalendar : Prop :=
  (∀ (s : State) (d : DateTime) (step : Nat), s.grantedRequest = some (.setTime d step) →
    let c := s.calendar
    let known := c.state = .known
    let far := c.time.seconds + 900 < d.seconds ∨ d.seconds + 900 < c.time.seconds
    let refused := fun result => exec .setTime s = .next (s.responded s.engine ⟨0x51, result, []⟩)
    let accepted := exec .setTime s = .next (s.heldFor (.timeLoad c d))
    (d.valid = false → refused .badField) ∧
    (d.valid = true → ¬known → accepted) ∧
    (d.valid = true → known → 1 < step → refused .badField) ∧
    (d.valid = true → known → step = 0 → far → refused .stepTooLarge) ∧
    (d.valid = true → known → step = 0 → ¬far → accepted) ∧
    (d.valid = true → known → step = 1 → accepted)) ∧
  (∀ (s : State) (taken : Calendar) (d : DateTime), s.hold = some (.timeLoad taken d) →
    let c := { s.calendar with
      state := .known, time := d, districtMinute := d.districtMinute, sub := 0, hold := 0
      minuteEvents := s.calendar.minuteEvents + (if s.calendar.districtMinute < d.districtMinute then 1 else 0) }
    let read := [byteField taken.state.code, pairField taken.time.year, byteField taken.time.month,
      byteField taken.time.day, byteField taken.time.hour, byteField taken.time.minute, byteField taken.time.second]
    (s.takesResponse = true →
      exec .timeLoad s = .next ({ s with calendar := c }.released ⟨0x51, .done, read ++ c.report⟩)) ∧
    (s.takesResponse = false → exec .timeLoad s = .next { s with calendar := c, hold := none }))

/-- ALIGN MINUTE and its command, on a sound calendar (as CalendarStaysValid keeps it): TIME UNSET while the calendar is
UNSET; otherwise the engine holds the request until the command arrives, which clears the second, the sub-second count and
the hold, and from second 30 on advances the minute, except at the end of the range (R148, R156). SET REGULATION and its
write: BAD FIELD outside -63 to +63; otherwise the engine holds the request until the write arrives, which changes the
regulation value alone (R158, R192). The count of minute events is log entry 17, and that the response is lost at its
delivery while a restart waits is log entry 13. -/
def Obligations.AlignAndRegulationAct : Prop :=
  ((∀ s : State, s.grantedRequest = some .alignMinute →
      (s.calendar.state = .unset → exec .alignMinute s = .next (s.responded s.engine ⟨0x52, .timeUnset, []⟩)) ∧
      (s.calendar.state = .known → exec .alignMinute s = .next (s.heldFor .align))) ∧
    (∀ s : State, s.hold = some .align → s.calendar.wf →
      let t := s.calendar.time
      let last := t.year = 2199 ∧ t.month = 12 ∧ t.day = 31 ∧ t.hour = 23 ∧ t.minute = 59
      let advances := 30 ≤ t.second ∧ ¬last
      ∃ c : Calendar,
        c.sub = 0 ∧ c.hold = 0 ∧ c.state = s.calendar.state ∧ c.regulation = s.calendar.regulation ∧ c.time.second = 0 ∧
        c.time.valid = true ∧ c.districtMinute = c.time.districtMinute ∧
        (advances → c.districtMinute = s.calendar.districtMinute + 1 ∧
          c.minuteEvents = s.calendar.minuteEvents + 1) ∧
        (¬advances → c.time = { t with second := 0 } ∧ c.districtMinute = s.calendar.districtMinute ∧
          c.minuteEvents = s.calendar.minuteEvents) ∧
        (s.takesResponse = true →
          exec .alignCommand s = .next ({ s with calendar := c }.released ⟨0x52, .done,
            [byteField t.second, flagField (decide advances)] ++ c.report⟩)) ∧
        (s.takesResponse = false → exec .alignCommand s = .next { s with calendar := c, hold := none }))) ∧
  ((∀ (s : State) (value : Nat), s.grantedRequest = some (.setRegulation value) →
      let v := (BitVec.ofNat 8 value).toInt
      (v < -63 ∨ 63 < v → exec .setRegulation s = .next (s.responded s.engine ⟨0x53, .badField, []⟩)) ∧
      (-63 ≤ v → v ≤ 63 → exec .setRegulation s = .next (s.heldFor (.regulation v)))) ∧
    (∀ (s : State) (v : Int), s.hold = some (.regulation v) →
      let c := { s.calendar with regulation := v }
      (s.takesResponse = true → exec .regulationWrite s = .next ({ s with calendar := c }.released
        ⟨0x53, .done, regulationField s.calendar.regulation :: c.report⟩)) ∧
      (s.takesResponse = false → exec .regulationWrite s = .next { s with calendar := c, hold := none })))

/-- A step of the timebase, on a sound calendar (as CalendarStaysValid keeps it), in every supply state in which the
calendar counts: the hold counts down, or the sub-second count advances, or it wraps and the second advances, or the
minute with its carries, one district minute and one minute event, and at a minute that is a multiple of ten the
regulation value acts; at the last second of 2199 only the count wraps. In UNPOWERED, and in a start whose mark is invalid
(log entry 20), nothing counts (R147 to R149, R159). REGULATION_HOLD_END leaves what as many steps as the hold still
counts would leave (R149; that one command stands for the rest of the hold is log entry 19). -/
def Obligations.CalendarCounts : Prop :=
  (∀ s : State, s.calendar.wf →
      let c := s.calendar
      let counts := s.supply.state ≠ .unpowered ∧ (s.supply.state = .starting → s.supply.mark = true)
      let last := c.time.year = 2199 ∧ c.time.month = 12 ∧ c.time.day = 31 ∧ c.time.hour = 23 ∧ c.time.minute = 59
      let stepped := fun c' => exec .timebaseStep s = .next { s with calendar := c' }
      (¬counts → exec .timebaseStep s = .next s) ∧
      (counts → 0 < c.hold → stepped { c with hold := c.hold - 1 }) ∧
      (counts → c.hold = 0 → c.sub < 1023 → stepped { c with sub := c.sub + 1 }) ∧
      (counts → c.hold = 0 → c.sub = 1023 → c.time.second < 59 →
        stepped { c with sub := 0, time := { c.time with second := c.time.second + 1 } }) ∧
      (counts → c.hold = 0 → c.sub = 1023 → c.time.second = 59 → last → stepped { c with sub := 0 }) ∧
      (counts → c.hold = 0 → c.sub = 1023 → c.time.second = 59 → ¬last →
        ∃ d : DateTime, d.valid = true ∧ d.second = 0 ∧ d.districtMinute = c.districtMinute + 1 ∧
          stepped { c with
            time := d, districtMinute := c.districtMinute + 1, minuteEvents := c.minuteEvents + 1
            sub := if d.minute % 10 = 0 ∧ 0 < c.regulation then c.regulation.toNat else 0
            hold := if d.minute % 10 = 0 ∧ c.regulation < 0 then c.regulation.natAbs else 0 })) ∧
  (∀ s : State, s.pending = [] → s.counting = true →
      exec .regulationHoldEnd s = .next { s with calendar := { s.calendar with hold := 0 } } ∧
      core.run s.calendar.hold { s with pending := List.replicate s.calendar.hold .timebaseStep } =
        exec .regulationHoldEnd s)

/-! ## Lines (chapter 9) -/

/-- SET LINE and its command: BAD FIELD for a line above 3 or a setting out of its values; otherwise the command is on its
way behind what was sent before, and the response is given at once. On arrival, settings equal to those held change
nothing but the line's passing time, and others are written with every discard of R161, a CURRENT take becoming STALE
(R160 to R162; that the receiver begins to look for a start bit then is log entry 9). -/
def Obligations.SetLineChangesSettings : Prop :=
  (∀ (s : State) (line role rate parity stopBits duplex : Nat),
    s.grantedRequest = some (.setLine line role rate parity stopBits duplex) →
    (lineOfIndex line = none ∨ settingsOf role rate parity stopBits duplex = none →
      exec .setLine s = .next (s.responded s.engine ⟨0x60, .badField, []⟩)) ∧
    (∀ n new, lineOfIndex line = some n → settingsOf role rate parity stopBits duplex = some new →
      exec .setLine s = .next ((s.withLine n { s.lines.get n with
          inFlight := (s.lines.get n).inFlight ++ [.settings new] }).responded s.engine
        ⟨0x60, .done, [byteField new.role.code, byteField new.rate.code, byteField new.parity.code,
          byteField new.stopBits.count, byteField new.duplex.code]⟩))) ∧
  (∀ (s : State) (n : LineNo) (elapsed : Nat) (new : Settings) (rest : List LineItem),
    (s.lines.get n).inFlight = .settings new :: rest →
    let l := s.lines.get n
    (l.settings = new → exec (.settingsCommand n elapsed) s = .next (s.withLine n
      { l.advance elapsed with inFlight := rest })) ∧
    (l.settings ≠ new → exec (.settingsCommand n elapsed) s = .next (s.withLine n
      { settings := new, assembler := .hunt, inbound := [], outbound := [], transmitter := .idle,
        flags := ⟨false, false, false, false, false, false, false, false⟩, lastUnknown := none,
        take := if l.take = .none then .none else .stale, quiet := 0, silence := 0, looking := 0, inFlight := rest })))

/-- READ LINE and its command: BAD FIELD for a line above 3; otherwise the read is on its way behind what was sent before and
the engine holds the request; on arrival the line reports itself as it then stands, clears its flags, and keeps the rest with
its last unknown sender, and the request completes (R169, R171 to R173; the value bytes of an absent sender are log entry
36, the response lost at its delivery while a restart waits log entry 13). -/
def Obligations.ReadLineReports : Prop :=
  (∀ (s : State) (line : Nat), s.grantedRequest = some (.readLine line) →
    (lineOfIndex line = none → exec .readLine s = .next (s.responded s.engine ⟨0x61, .badField, []⟩)) ∧
    (∀ n, lineOfIndex line = some n →
      exec .readLine s = .next ((s.withLine n { s.lines.get n with
        inFlight := (s.lines.get n).inFlight ++ [.read] }).heldFor (.lineReport n)))) ∧
  (∀ (s : State) (n : LineNo) (elapsed : Nat) (rest : List LineItem), (s.lines.get n).inFlight = .read :: rest →
    let l := (s.lines.get n).advance elapsed
    let read := s.withLine n { l with flags := .clear, inFlight := rest }
    (s.takesResponse = true → exec (.readCommand n elapsed) s = .next (read.released ⟨0x61, .done,
      [byteField l.settings.role.code, byteField l.settings.rate.code, byteField l.settings.parity.code,
        byteField l.settings.stopBits.count, byteField l.settings.duplex.code, byteField l.inbound.length,
        byteField l.outbound.length, byteField (bitsNat [l.transmitter != .idle, l.transmitEmpty, l.transmitEnd]),
        byteField l.assembler.code, byteField l.flags.bits] ++ senderFields l.lastUnknown⟩)) ∧
    (s.takesResponse = false → exec (.readCommand n elapsed) s = .next { read with hold := none }))

/-- LINE_DELIVERY: while the line takes it, a reply joins the tail of the outbound queue, and a mark writes the last unknown
sender and raises UNKNOWN SENDER, when the take marker is CURRENT; a STALE take, a stopped line and a line about to restart
discard it; the marker returns to NONE and the engine is idle (R31, R33, R162, R172, R174; log entry 13). -/
def Obligations.LineDeliveryArrives : Prop :=
  ∀ (s : State) (n : LineNo) (d : Delivery) (rest : List LineItem),
    (s.lines.get n).inFlight = .delivery d :: rest →
    let l := { s.lines.get n with inFlight := rest, take := .none }
    let done := fun l => Host.Outcome.next { s.withLine n l with hold := none }
    (s.takesResponse = true → (s.lines.get n).take = .current →
      (∀ r, d = .reply r → exec (.lineDelivery n) s = done { l with outbound := l.outbound ++ [r] }) ∧
      (∀ x, d = .mark x → exec (.lineDelivery n) s =
        done { l with lastUnknown := some x, flags := { l.flags with unknownSender := true } })) ∧
    (s.takesResponse = false ∨ (s.lines.get n).take ≠ .current → exec (.lineDelivery n) s = done l)

/-- RECEIVE_CHARACTER at a listening line in RUNNING: a parity or stop bit in fault raises its flag and discards what is
in assembly; a good character goes to the assembler in the state the silence before it leaves; both at the middle of the
first stop bit, half a bit before the end from which silence counts, and the receiver looks for a start bit from there on
(R163, R165, R167, log entry 35); the quiet time begins anew at the character's start bit, runs from there in HUNT, and
stands where the marker ends it (R170, log entry 9). Elsewhere the character is not taken: a line that is OFF or sends
under HALF duplex, or whose receiver did not look for a start bit when this one fell, as inside a HALF duplex reply,
passes its time, and a part not RUNNING is unchanged (R160, R170, R174). -/
def Obligations.CharactersAreTaken : Prop :=
  ∀ (s : State) (n : LineNo) (elapsed : Nat) (data : Byte) (parityBit stopBit : Bool),
    let l := (s.lines.get n).advance elapsed
    let bit := l.settings.rate.bitUnits
    let length := (9 + (if l.settings.parity = .none then 0 else 1)) * bit + bit / 2
    let before := if l.assembler ≠ .hunt ∧ bit / 2 + 4 * l.settings.charUnits < l.silence - length then l.gap else l
    let fault := match l.settings.parity with
      | .none => false
      | .even => oddOnes data != parityBit
      | .odd => oddOnes data == parityBit
    let heard := l.settings.role ≠ .off ∧ (l.settings.duplex = .full ∨ l.transmitter = .idle) ∧ length ≤ l.looking
    let character := exec (.receiveCharacter n elapsed data parityBit stopBit) s
    (s.supply.state ≠ .running → character = .next s) ∧
    (s.supply.state = .running → ¬heard → character = .next (s.withLine n l)) ∧
    (s.supply.state = .running → heard →
      (fault = true ∨ stopBit = false → character = .next (s.withLine n { before with
        assembler := .hunt
        looking := 0
        quiet := if before.assembler = .hunt then length else 0
        flags := { before.flags with
          parity := before.flags.parity || fault, framing := before.flags.framing || !stopBit } })) ∧
      (fault = false → stopBit = true → character = .next (s.withLine n
        { before.assemble data with
          silence := 0
          looking := 0
          quiet := if before.assembler = .hunt then length else 0 })))

/-- GAP_TIMEOUT, REPLY_BEGIN and REPLY_END in RUNNING: silence beyond 4 character times without a start bit, counted from
half a bit after the latest good character, ends a message with GAP and a skip without a flag, and the quiet time runs on
from there, or anew from a start bit behind it; the head of the outbound queue begins when the transmitter is idle and,
under HALF duplex, the quiet time, begun anew by a start bit, has reached 2 character times; a reply whose characters have
all been sent ends, and quiet time begins anew. Where the condition does not hold only the line's time passes (R167, R169,
R170; log entries 2, 8, 9 and 35). The output is released while the part is not RUNNING or the line is OFF, one while the
transmitter is idle, and else the bit of the reply that the time sent has reached: start bit, data, parity, stop bits
(R160, R164, R174). -/
def Obligations.LineTimersAct : Prop :=
  (∀ (l : Line) (elapsed : Nat), l.advance elapsed = { l with
      quiet := if l.assembler = .hunt then l.quiet + elapsed else l.quiet
      silence := l.silence + elapsed
      looking := if l.settings.role ≠ .off ∧ (l.settings.duplex = .full ∨ l.transmitter = .idle) then l.looking + elapsed
        else 0
      transmitter := match l.transmitter with
        | .idle => .idle
        | .sending r sent => .sending r (sent + elapsed) }) ∧
  (∀ (s : State) (n : LineNo) (elapsed : Nat) (start : Option Nat), s.supply.state = .running →
    let l := (s.lines.get n).advance elapsed
    let limit := l.settings.rate.bitUnits / 2 + 4 * l.settings.charUnits
    let listening := l.settings.role ≠ .off ∧ (l.settings.duplex = .full ∨ l.transmitter = .idle)
    let fell := match start with
      | none => none
      | some since => if listening ∧ since ≤ l.looking then some since else none
    let heard := { l with quiet := match fell with
      | none => l.quiet
      | some since => if l.assembler = .hunt then min l.quiet since else 0 }
    let silent := listening ∧ l.assembler ≠ .hunt ∧ limit < l.silence - fell.getD 0
    let mayBegin := l.transmitter = .idle ∧ (l.settings.duplex = .full ∨ 2 * l.settings.charUnits ≤ heard.quiet)
    (silent → exec (.gapTimeout n ⟨elapsed, start⟩) s = .next (s.withLine n { l with
      assembler := .hunt, quiet := fell.getD (l.quiet + (l.silence - limit))
      flags := { l.flags with gap := l.flags.gap || l.assembler.assembling } })) ∧
    (¬silent → exec (.gapTimeout n ⟨elapsed, start⟩) s = .next (s.withLine n heard)) ∧
    (∀ r rest, l.outbound = r :: rest → mayBegin → exec (.replyBegin n ⟨elapsed, start⟩) s = .next (s.withLine n
      { heard with outbound := rest, transmitter := .sending r 0 })) ∧
    (l.outbound = [] ∨ ¬mayBegin → exec (.replyBegin n ⟨elapsed, start⟩) s = .next (s.withLine n heard)) ∧
    (∀ r sent, l.transmitter = .sending r sent → r.bytes.length * l.settings.charUnits ≤ sent →
      exec (.replyEnd n elapsed) s = .next (s.withLine n { l with transmitter := .idle, quiet := 0 })) ∧
    (l.transmitter = .idle ∨ (∃ r sent, l.transmitter = .sending r sent ∧
        sent < r.bytes.length * l.settings.charUnits) →
      exec (.replyEnd n elapsed) s = .next (s.withLine n l))) ∧
  (∀ (l : Line) (running : Bool),
    (running = false ∨ l.settings.role = .off → l.output running = .highImpedance) ∧
    (running = true → l.settings.role ≠ .off →
      (l.transmitter = .idle → l.output running = .one) ∧
      (∀ r i b bit part, r.bytes[i]? = some b → bit < l.settings.charBits → part < l.settings.rate.bitUnits →
        l.transmitter = .sending r (i * l.settings.charUnits + bit * l.settings.rate.bitUnits + part) →
        l.output running = Level.ofBit (
          if bit = 0 then false
          else if bit ≤ 8 then b.getLsbD (bit - 1)
          else if bit = 9 then
            match l.settings.parity with
            | .none => true
            | .even => oddOnes b
            | .odd => !oddOnes b
          else true))))

/-! ## The attention output and a frame that is no request (chapter 10) -/

/-- SET ATTENTION MASK and its write: BAD FIELD when bit 7 is set; otherwise the engine holds the request until the seven
enables of the mask byte are written, and nothing else but the completion changes (R182, R183). READ ATTENTION changes
nothing of the tables and reports the mask, the causes holding (RESPONSE READY never, the port being BUSY), and whether an
enabled cause holds (R184). The line is asserted in RUNNING and STARTING exactly while an enabled cause holds, RESPONSE READY
while the port is READY and each other cause as its owner has it, and not asserted in STOPPING, RETAINING and UNPOWERED
(R182). The response of the write lost at its delivery while a restart waits is log entry 13. -/
def Obligations.AttentionIsMaskedAndRead : Prop :=
  ((∀ (s : State) (b : Nat), s.grantedRequest = some (.setAttentionMask b) →
      (b.testBit 7 = true →
        exec .setAttentionMask s = .next (s.responded s.engine ⟨0x70, .badField, []⟩)) ∧
      (b.testBit 7 = false →
        exec .setAttentionMask s = .next (s.heldFor (.maskWrite ⟨b.testBit 0, b.testBit 1, b.testBit 2, b.testBit 3,
          b.testBit 4, b.testBit 5, b.testBit 6⟩)))) ∧
    (∀ (s : State) (mask : Causes), s.hold = some (.maskWrite mask) →
      (s.takesResponse = true → exec .maskWrite s = .next ({ s with mask := mask }.released
        ⟨0x70, .done, [byteField (bitsNat [mask.responseReady, mask.noticesWaiting, mask.lineFault, mask.agentWatermark,
          mask.poolLow, mask.timeUnset, mask.backupLow])]⟩)) ∧
      (s.takesResponse = false → exec .maskWrite s = .next { s with mask := mask, hold := none }))) ∧
  (∀ s : State, s.grantedRequest = some .readAttention →
      let faulty := fun l : Line => l.flags.framing || l.flags.parity || l.flags.messageOverrun
      let mask := [s.mask.responseReady, s.mask.noticesWaiting, s.mask.lineFault, s.mask.agentWatermark, s.mask.poolLow,
        s.mask.timeUnset, s.mask.backupLow]
      let causes := [false, decide (s.engine.notices ≠ []), lineNos.any (fun n => faulty (s.lines.get n)),
        s.engine.agents.any (fun a => a.2.watermark), decide (s.engine.poolFree < 64),
        decide (s.calendar.state = .unset), s.supply.backupLow]
      exec .readAttention s = .next (s.responded s.engine ⟨0x71, .done,
        [byteField (bitsNat mask), byteField (bitsNat causes), flagField ((List.zipWith and mask causes).any id)]⟩)) ∧
  (∀ s : State,
      let faulty := fun l : Line => l.flags.framing = true ∨ l.flags.parity = true ∨ l.flags.messageOverrun = true
      let asserted :=
        (s.mask.responseReady = true ∧ s.port.state = .ready) ∨
        (s.mask.noticesWaiting = true ∧ s.engine.notices ≠ []) ∨
        (s.mask.lineFault = true ∧ ∃ n, faulty (s.lines.get n)) ∨
        (s.mask.agentWatermark = true ∧ ∃ a ∈ s.engine.agents, a.2.watermark = true) ∨
        (s.mask.poolLow = true ∧ s.engine.poolFree < 64) ∨
        (s.mask.timeUnset = true ∧ s.calendar.state = .unset) ∨
        (s.mask.backupLow = true ∧ s.supply.backupLow = true)
      (s.supply.state = .running ∨ s.supply.state = .starting → (s.attention = true ↔ asserted)) ∧
      (s.supply.state = .stopping ∨ s.supply.state = .retaining ∨ s.supply.state = .unpowered → s.attention = false))

/-- REQUEST_FRAME with at least one clock and a kind that is not READ. The status byte carries what its fall of select
latched: the status now, or the one before a change since. In RUNNING and STARTING the flags it carried are cleared once it
is shifted out whole; a torn frame raises TORN and changes nothing else; a complete one is judged as the part and the port
stand at the rise: accepted in IDLE while RUNNING, answered STOPPING by the port in IDLE while STARTING, and otherwise
discarded with OVERRUN. In STOPPING the status is shifted out and nothing judged; without power nothing happens; a frame
that a stop, a start or a restart has ended is not judged; an empty frame changes nothing; a frame whose kind is READ acts as
the READ_FRAME of the clocks after the kind byte (R175 to R181, R193; log entries 6, 12 and 18). -/
def Obligations.RequestFramesAreJudged : Prop :=
  (∀ (s : State) (before : Nat) (bits : List Bool), bits ≠ [] → (packBytes bits).head? ≠ some 0x5A →
      let now : Status := ⟨s.supply.state, s.port.state, s.port.overrun, s.port.torn⟩
      let ends := fun p => exec (.requestFrame ⟨before, bits⟩) s = .next { s with port := p }
      (∀ x, (now :: s.port.earlier)[before]? = some x →
        let status := x.supply.statusBits ++ x.port.statusBits ++ [false, false, x.overrun, x.torn]
        let p := { s.port with
          overrun := s.port.overrun && !(x.overrun && decide (8 ≤ bits.length))
          torn := s.port.torn && !(x.torn && decide (8 ≤ bits.length))
          earlier := []
          dataOut := (status ++ List.replicate (bits.length - 8) true).take bits.length }
        let live := s.supply.state = .running ∨ s.supply.state = .starting
        (live → completeFrame bits = none → ends { p with torn := true }) ∧
        (∀ f, completeFrame bits = some f →
          (s.supply.state = .running → s.port.state = .idle → ends { p with state := .busy, request := some f }) ∧
          (s.supply.state = .starting → s.port.state = .idle →
            ends { p with state := .ready, response := some ⟨f.kind, .stopping, []⟩ }) ∧
          (live → s.port.state ≠ .idle → ends { p with overrun := true })) ∧
        (s.supply.state = .stopping → ends { s.port with earlier := [], dataOut := p.dataOut }) ∧
        (s.supply.state = .retaining ∨ s.supply.state = .unpowered →
          ends { s.port with earlier := [], dataOut := [] })) ∧
      (s.port.earlier.length < before → ends { s.port with earlier := [] })) ∧
  (∀ (s : State) (before : Nat), exec (.requestFrame ⟨before, []⟩) s = .next s) ∧
  (∀ (s : State) (before : Nat) (bits : List Bool), (packBytes bits).head? = some 0x5A →
    exec (.requestFrame ⟨before, bits⟩) s = exec (.readFrame ⟨before, bits.length - 8⟩) s)

/-- READ_FRAME in RUNNING and STARTING: the flags the latched status byte carried are cleared, a number of clocks that is no
multiple of eight raises TORN, a port latched READY shifts its response out from its first byte and becomes IDLE with an
empty buffer when the whole of it has been clocked, and otherwise keeps it whole; one latched IDLE or BUSY shifts ones and
stays as it is, also when a completion has made it READY since; after status and response come ones. A stopping port
reports its status alone, a part without power nothing, and a frame that was ended before leaves nothing (R175, R176, R179
to R181, R193; log entries 6, 7 and 18). Data out is at high impedance while select is high and without power; within a frame
it has at each clock the bit of the status byte, then for a READ frame of a port latched READY in RUNNING and STARTING the
bit of the response, and else a one (R175, R181; log entry 37). -/
def Obligations.ReadFramesShiftResponse : Prop :=
  (∀ (s : State) (before clocks : Nat),
    let now : Status := ⟨s.supply.state, s.port.state, s.port.overrun, s.port.torn⟩
    let read := fun p => exec (.readFrame ⟨before, clocks⟩) s = .next { s with port := p }
    (∀ x, (now :: s.port.earlier)[before]? = some x →
      let status := x.supply.statusBits ++ x.port.statusBits ++ [false, false, x.overrun, x.torn]
      let out := fun bits => (bits ++ List.replicate (8 + clocks - bits.length) true).take (8 + clocks)
      let p := { s.port with
        overrun := s.port.overrun && !x.overrun
        torn := (s.port.torn && !x.torn) || decide (clocks % 8 ≠ 0)
        earlier := []
        dataOut := out status }
      (s.supply.state = .running ∨ s.supply.state = .starting →
        (x.port ≠ .ready → read p) ∧
        (∀ r, x.port = .ready → s.port.response = some r →
          let bits := spellBits r.bytes
          (clocks < bits.length → read { p with dataOut := out (status ++ bits) }) ∧
          (bits.length ≤ clocks →
            read { p with dataOut := out (status ++ bits), state := .idle, response := none }))) ∧
      (s.supply.state = .stopping → read { s.port with earlier := [], dataOut := out status }) ∧
      (s.supply.state = .retaining ∨ s.supply.state = .unpowered → read { s.port with earlier := [], dataOut := [] })) ∧
    (s.port.earlier.length < before → read { s.port with earlier := [] })) ∧
  (∀ s : State, s.dataOutLevel .high = .highImpedance) ∧
  (∀ (s : State) (x : Status) (kindIsRead : Bool) (clock : Nat),
    let level := s.dataOutLevel (.low x kindIsRead clock)
    let status := x.supply.statusBits ++ x.port.statusBits ++ [false, false, x.overrun, x.torn]
    let live := s.supply.state = .running ∨ s.supply.state = .starting
    (s.supply.state = .retaining ∨ s.supply.state = .unpowered → level = .highImpedance) ∧
    (live ∨ s.supply.state = .stopping → ∀ bit, status[clock]? = some bit → level = Level.ofBit bit) ∧
    (live → kindIsRead = true → x.port = .ready → ∀ r, s.port.response = some r →
      (∀ i bit, clock = 8 + i → (spellBits r.bytes)[i]? = some bit → level = Level.ofBit bit) ∧
      (8 + (spellBits r.bytes).length ≤ clock → level = .one)) ∧
    (live → 8 ≤ clock → kindIsRead = false ∨ x.port ≠ .ready → level = .one) ∧
    (s.supply.state = .stopping → 8 ≤ clock → level = .one))

/-! ## Line messages (chapters 4 and 7) -/

/-- CHECK-IN: an unknown kit leaves its mark on the line and touches no table; a failed check is counted on the record, CHECK
FAULT raised at the eighth, and answered with silence; a good one brings the record current, records the report, compares the
held number, issues or repeats the offer, and sends the GRANT REPLY sealed with the record's key; a notice raised on an empty
set brings the record to the tail of the notice list (R114, R126 to R139; that a failed check completes within its step is log entry 25, LOCK for a repeated absent kind log entry 27). -/
def Obligations.CheckInIsAnswered : Prop :=
  ∀ (s : State) (n : LineNo) (m : CheckInMsg), s.grantedMessage = some (n, .checkIn m) →
    let t := s.instant
    (s.engine.directory.get m.kit = none →
      exec .checkIn s = .next (s.sending n s.engine (.mark (.kit m.kit)))) ∧
    ∀ w, s.engine.find m.kit = .found w →
      (keyedCheck w.record.key m.covered ≠ m.check → exec .checkIn s = .next (s.silenced n
        { w.engine with
          accounts := w.engine.accounts.put w.slot { w.record with
            badChecks := min (w.record.badChecks + 1) 8
            notices := { w.record.notices with
              checkFault := w.record.notices.checkFault || w.record.badChecks == 7 } }
          notices := if w.record.badChecks = 7 ∧ w.record.notices = .clear then w.engine.notices ++ [w.record.kit]
            else w.engine.notices })) ∧
      (keyedCheck w.record.key m.covered = m.check →
        let w := { w with record := { w.record with badChecks := 0 } }.current t
        let r := w.record
        ∃ (w' : Work) (g : GrantReply),
          exec .checkIn s = .next (s.sending n w'.commit
            (.reply ⟨.grant g, keyedCheck r.key (ReplyBody.grant g).covered⟩)) ∧
          w'.slot = w.slot ∧ w'.plan = w.plan ∧
          w'.engine = { w.engine with
            notices := if r.notices = .clear ∧ (m.flags.getLsbD 0 = true ∨ r.offer.number < m.held)
              then w.engine.notices ++ [r.kit] else w.engine.notices } ∧
          w'.record = { r with
            lastCheckIn := some (t, n), energy := min (r.energy + m.energy) 4294967295
            kitFlags := ⟨m.flags.getLsbD 0, m.flags.getLsbD 1⟩
            acked := if m.held = r.offer.number then m.held
              else if m.held < r.offer.number ∧ r.acked < m.held then m.held else r.acked
            offer := w'.record.offer
            notices := { r.notices with
              tamper := r.notices.tamper || m.flags.getLsbD 0
              grantMismatch := r.notices.grantMismatch || decide (r.offer.number < m.held) } } ∧
          (s.calendar.state = .unset ∨ r.offer.number < m.held → w'.record.offer = r.offer) ∧
          (s.calendar.state = .known → m.held ≤ r.offer.number →
            w'.record.offer = r.offer.after (r.desired w.plan t) w.plan.renew) ∧
          g.kit = r.kit ∧ g.number = w'.record.offer.number ∧ g.days = r.kitDays t ∧
          (s.calendar.state = .unset → g.kind = .hold ∧ g.runMinutes = 0) ∧
          (s.calendar.state = .known →
            g.kind = (match w'.record.offer.kind with
              | some .run => .run
              | some .owned => .owned
              | some .lock => .lock
              | none => .lock) ∧
            g.runMinutes = (if w'.record.offer.kind = some .run
              then min (w'.record.offer.runThrough.getD 0 - t) 65535 else 0)))

/-- The offer that stands after a CHECK-IN on a record with paid-through later than `t` when it is ACTIVE, as bringing
current leaves it: LOCK, OWNED or RUN is desired by the state; RUN reaches to the smaller of paid-through and the lease,
never beyond paid-through; a new offer takes the next number, and only when the kind changes, the run reaches the renew
step further, or a claw-back shrinks it; below the largest number (R133 to R138). -/
def Obligations.OffersFollowTheRecord : Prop :=
  ∀ (r : Record) (p : Plan) (t : Nat),
    let next := r.offer.after (r.desired p t) p.renew
    let run := min (r.paid.getD 0) (t + p.lease)
    let overhang := r.offer.kind = some .run ∧ r.paid.isSome = true ∧
      r.paid.getD 0 < r.offer.runThrough.getD 0
    let issued := fun kind through => next = ⟨r.offer.number + 1, some kind, through⟩
    (4294967295 ≤ r.offer.number → next = r.offer) ∧
    (r.offer.number < 4294967295 →
      (r.state ≠ .active → r.state ≠ .owned →
        (r.offer.kind = some .lock → next = r.offer) ∧ (r.offer.kind ≠ some .lock → issued .lock none)) ∧
      (r.state = .owned →
        (r.offer.kind = some .owned → next = r.offer) ∧ (r.offer.kind ≠ some .owned → issued .owned none)) ∧
      (r.state = .active → overhang →
        (p.clawBack = true → issued .run (some run)) ∧ (p.clawBack = false → next = r.offer)) ∧
      (r.state = .active → ¬overhang →
        (r.offer.kind ≠ some .run → issued .run (some run)) ∧
        (∀ old, r.offer.kind = some .run → r.offer.runThrough = some old →
          (old + p.renew ≤ run → issued .run (some run)) ∧ (run < old + p.renew → next = r.offer)))) ∧
    (next ≠ r.offer → next.kind = some .run → r.paid.isSome = true → next.runThrough.getD 0 ≤ r.paid.getD 0)

/-- TOP-UP that is not accepted: a message of no agent leaves its mark; a BARRED agent, a field out of range and an
unknown kit are answered with nothing brought current; then, on the record as bringing current left it, each refusal of
R72 in its order, DUPLICATE REFERENCE telling the agent that made the entry what it credited (R71, R72, R74). -/
def Obligations.TopUpRefuses : Prop :=
  ∀ (s : State) (n : LineNo) (m : TopUpMsg), s.grantedMessage = some (n, .topUp m) →
    let t := s.instant
    let named := if 1 ≤ m.agent ∧ m.agent ≤ 64 then s.engine.agents.get m.agent else none
    ((∀ a, named = some a → keyedCheck a.key m.covered ≠ m.check) →
      exec .topUp s = .next (s.sending n s.engine (.mark (.agent m.agent)))) ∧
    ∀ a, named = some a → keyedCheck a.key m.covered = m.check →
      let answered := fun (e : Engine) (x : TopUpAnswer) => exec .topUp s = .next (s.sending n e
        (.reply ⟨.topUp x, keyedCheck a.key (ReplyBody.topUp x).covered⟩))
      let early := fun result => answered s.engine ⟨m.reference, result, 0, 0, 0, ⟨0, false⟩⟩
      let good := (1 ≤ m.kit ∧ m.kit ≤ 4294967294) ∧ m.reference ≠ 0
      (a.barred = true → early .agentBarred) ∧
      (a.barred = false → ¬good → early .badField) ∧
      (a.barred = false → good → s.engine.directory.get m.kit = none → early .unknownKit) ∧
      (a.barred = false → good → ∀ w, s.engine.find m.kit = .found w →
        let w := w.current t
        let r := w.record
        let refused := fun result => answered w.commit ⟨m.reference, result, 0, 0, 0, r.agentDays t⟩
        (s.calendar.state = .unset → refused .timeUnset) ∧
        (s.calendar.state = .known →
          (∀ held, findEntry m.reference r.pending = some held →
            (held.agent = m.agent → answered w.commit
              ⟨m.reference, .duplicateReference, held.minutes, held.amount, 0, r.agentDays t⟩) ∧
            (held.agent ≠ m.agent → refused .duplicateReference)) ∧
          (findEntry m.reference r.pending = none →
            (r.state = .owned → refused .wrongState) ∧
            (r.state ≠ .owned →
              (m.amount < w.plan.minimum → refused .belowMinimum) ∧
              (w.plan.minimum ≤ m.amount →
                (4 ≤ r.pending.length → refused .pendingFull) ∧
                (r.pending.length < 4 →
                  (w.engine.poolFree = 0 → refused .poolFull) ∧
                  (0 < w.engine.poolFree →
                    (convert w.plan m.amount 0 (r.base t) t = none → refused .capExceeded) ∧
                    (∀ c b, convert w.plan m.amount 0 (r.base t) t = some c →
                      w.engine.agents.get m.agent = some b → b.limit < b.outstanding + c.accepted →
                      refused .floatExceeded))))))))

/-- TOP-UP accepted: a pool entry becomes a pending entry at the tail of the record's list and in the settlement index, the
agent's outstanding rises and its watermark is set above three quarters of the limit, and the record is credited as by a
payment, with reminder raised, REMIND and the due entry as R9 gives, its confirmed total and residue kept (R9, R63, R66,
R73, R74, R92, R114). -/
def Obligations.TopUpMakesEntry : Prop :=
  ∀ (s : State) (n : LineNo) (m : TopUpMsg) (a b : Agent) (w : Work) (c : Conversion),
    s.grantedMessage = some (n, .topUp m) → 1 ≤ m.agent → m.agent ≤ 64 → s.engine.agents.get m.agent = some a →
    keyedCheck a.key m.covered = m.check → a.barred = false → 1 ≤ m.kit → m.kit ≤ 4294967294 → m.reference ≠ 0 →
    s.engine.find m.kit = .found w → s.calendar.state = .known →
    let t := s.instant
    let w := w.current t
    let base := match w.record.paid with
      | some p => if t < p then p else t
      | none => t
    findEntry m.reference w.record.pending = none → w.record.state ≠ .owned → w.plan.minimum ≤ m.amount →
    w.record.pending.length < 4 → 0 < w.engine.poolFree → convert w.plan m.amount 0 base t = some c →
    w.engine.agents.get m.agent = some b → b.outstanding + c.accepted ≤ b.limit →
    let entry : Entry :=
      { reference := m.reference, agent := m.agent, amount := c.accepted, minutes := c.minutes, remainder := c.remainder,
        taken := t, deadline := t + a.window * 60 }
    let paid := base + c.minutes
    let state := if w.record.state = .suspended then .suspended else creditState (some paid) w.plan.window t
    let reminded := w.record.reminded && decide (paid - t ≤ w.plan.lead)
    let remind := state = .active ∧ 0 < w.plan.lead ∧ paid - t ≤ w.plan.lead ∧ reminded = false
    let r := { w.record with
      pending := w.record.pending ++ [entry], paid := some paid, state := state, reminded := reminded || decide remind
      notices := { w.record.notices with remind := w.record.notices.remind || decide remind } }
    let x := ReplyBody.topUp ⟨m.reference, .done, c.minutes, c.accepted, c.surplus, r.agentDays t⟩
    exec .topUp s = .next (s.sending n
      { w.engine with
        accounts := w.engine.accounts.put w.slot { r with due := r.dueFor w.plan }
        expiry := rekeyed w.engine.expiry w.record.kit w.slot (r.dueFor w.plan)
        notices := if remind ∧ w.record.notices = .clear then w.engine.notices ++ [w.record.kit] else w.engine.notices
        poolFree := w.engine.poolFree - 1
        settlement := settleInsert ⟨entry.deadline, w.record.kit, m.reference⟩ w.engine.settlement
        agents := w.engine.agents.put m.agent { b with
          outstanding := b.outstanding + c.accepted
          watermark := b.watermark || decide (3 * b.limit < 4 * (b.outstanding + c.accepted)) } }
      (.reply ⟨x, keyedCheck a.key x.covered⟩))

/-- STATUS: a message of no agent leaves its mark; otherwise, OPEN or BARRED alike, BAD FIELD, UNKNOWN KIT, or the record
brought current and reported, sealed with the agent's key; no table is changed but by bringing current (R89, R143, R144). -/
def Obligations.StatusIsAnswered : Prop :=
  ∀ (s : State) (n : LineNo) (m : StatusMsg), s.grantedMessage = some (n, .status m) →
    let t := s.instant
    let named := if 1 ≤ m.agent ∧ m.agent ≤ 64 then s.engine.agents.get m.agent else none
    ((∀ a, named = some a → keyedCheck a.key m.covered ≠ m.check) →
      exec .status s = .next (s.sending n s.engine (.mark (.agent m.agent)))) ∧
    ∀ a, named = some a → keyedCheck a.key m.covered = m.check →
      let answered := fun (e : Engine) (x : StatusAnswer) => exec .status s = .next (s.sending n e
        (.reply ⟨.status x, keyedCheck a.key (ReplyBody.status x).covered⟩))
      let good := 1 ≤ m.kit ∧ m.kit ≤ 4294967294
      (¬good → answered s.engine ⟨.badField, m.kit, none, ⟨0, false⟩, 0, 0⟩) ∧
      (good → s.engine.directory.get m.kit = none →
        answered s.engine ⟨.unknownKit, m.kit, none, ⟨0, false⟩, 0, 0⟩) ∧
      (good → ∀ w, s.engine.find m.kit = .found w →
        let w := w.current t
        answered w.commit ⟨.done, w.record.kit, some w.record.state, w.record.agentDays t, w.record.pending.length,
          if w.plan.price = 0 then 0 else w.record.confirmed * 100 / w.plan.price⟩)

/-! ## Bringing current and the passes (chapters 2 and 6) -/

/-- Bringing a record current at `t`: the entries due at `t` leave the record and return to the pool, each raising TIMED
SETTLEMENT, the later ones stay in order; what R35 to R37 do not name is not touched; the state agrees with `t`, the due
entry is the one R104 calls for, of an instant later than `t`, and stands so in the index; a second time at the same
instant changes nothing. With no entry due only the state, the notices of R36, reminder raised and the due entry can
change, and money, entries, agents and pool stand (R35 to R37; for a record returned to ACTIVE by a backward step, log
entry 34). The due entry of the earliest deadline, the first of equal ones, settles first, under its agent's policy as it
stands, and bringing current goes on with what that leaves: it leaves the record, the settlement index and the pool, its
amount leaves the agent's outstanding for its settled or reversed total, CONFIRM raises residue and confirmed total and
may make the record OWNED, REVERSE lowers paid-through and may raise OVERHANG, and an OWNED record keeps its own fields
(R76 to R78, R81, R93). -/
def Obligations.BringingCurrentAgrees : Prop :=
  (∀ (w : Work) (t : Nat),
      let w' := w.current t
      w.Same w' ∧
      ((w.record.pending.map Entry.reference).Nodup →
        w'.record.pending = w.record.pending.filter (fun en => decide (t < en.deadline)) ∧
        w'.engine.poolFree = w.engine.poolFree + (w.record.pending.filter (fun en => decide (en.deadline ≤ t))).length) ∧
      ((∃ en ∈ w.record.pending, en.deadline ≤ t) → w'.record.notices.timedSettlement = true) ∧
      (w'.record.state ≠ .suspended → w'.record.state ≠ .owned →
        w'.record.state = creditState w'.record.paid w.plan.window t) ∧
      w'.record.due = w'.record.dueFor w.plan ∧
      (∀ d, d ∈ w'.engine.expiry ↔ (d ∈ w.engine.expiry ∧ d.kit ≠ w.record.kit) ∨ w'.record.dueItem w.slot = some d) ∧
      (∀ kind instant, w'.record.due = some (kind, instant) → t < instant) ∧
      w'.current t = w') ∧
  (∀ (w : Work) (t : Nat), (∀ en ∈ w.record.pending, t < en.deadline) →
      let w' := w.current t
      let before := w.record.state
      let after := w'.record.state
      let remind := after = .active ∧ 0 < w.plan.lead ∧ w.record.paid.getD 0 - t ≤ w.plan.lead ∧ w.record.reminded = false
      w'.record = { w.record with
        state := after, reminded := w.record.reminded || decide remind, due := w'.record.due
        notices := { w.record.notices with
          lapsed := w.record.notices.lapsed || decide (before = .active ∧ (after = .lapsed ∨ after = .defaulted))
          defaulted := w.record.notices.defaulted || decide ((before = .active ∨ before = .lapsed) ∧ after = .defaulted)
          remind := w.record.notices.remind || decide remind } } ∧
      w'.engine = { w.engine with
        expiry := w'.engine.expiry
        notices := if w.record.notices = .clear ∧ w'.record.notices ≠ .clear then w.engine.notices ++ [w.record.kit]
          else w.engine.notices }) ∧
  (∀ (w : Work) (t : Nat) (en : Entry) (front back : List Entry) (a : Agent),
      w.record.pending = front ++ en :: back → (w.record.pending.map Entry.reference).Nodup → en.deadline ≤ t →
      (∀ x ∈ front, en.deadline < x.deadline) → (∀ x ∈ back, en.deadline ≤ x.deadline) →
      w.engine.agents.get en.agent = some a →
      let owned := w.record.state = .owned
      let settles := fun (a : Agent) (expiry : List DueItem) (r : Record) => w.current t = Work.current
        { w with
          engine := { w.engine with
            agents := w.engine.agents.put en.agent a, poolFree := w.engine.poolFree + 1, expiry := expiry
            settlement := w.engine.settlement.filter (fun i =>
              !(i.kit == w.record.kit && i.reference == en.reference))
            notices := if w.record.notices = .clear then w.engine.notices ++ [w.record.kit] else w.engine.notices }
          record := { r with pending := front ++ back, notices := { r.notices with timedSettlement := true } } } t
      (a.policy = .confirm →
        let a := { a with
          outstanding := a.outstanding - en.amount, settled := min (a.settled + en.amount) 281474976710655 }
        let total := w.record.confirmed + en.amount
        let r := { w.record with residue := min (w.record.residue + en.remainder) 14399998560 }
        let reaches := 0 < w.plan.price ∧ w.plan.price ≤ total
        (owned → settles a w.engine.expiry w.record) ∧
        (¬owned → reaches → settles a (dueRemove w.record.kit w.engine.expiry) { r with
          confirmed := w.plan.price, state := .owned, reason := none, due := none
          notices := { r.notices with owned := true } }) ∧
        (¬owned → ¬reaches → settles a w.engine.expiry { r with
          confirmed := if w.plan.price = 0 then min total 281474976710655 else total })) ∧
      (a.policy = .reverse →
        let a := { a with
          outstanding := a.outstanding - en.amount, reversed := min (a.reversed + en.amount) 281474976710655 }
        let r := { w.record with paid := w.record.paid.map (fun p => p - en.minutes) }
        (owned → settles a w.engine.expiry w.record) ∧
        (¬owned → settles a w.engine.expiry { r with
          notices := { r.notices with overhang := r.notices.overhang || decide (0 < r.overhang) } })))

/-- A grant is made in RUNNING with no restart waiting and the engine idle, to the first ready requester in circular order
from the pointer; the port is ready with a request not taken, a line with a message and a free place for its reply, a pass
with a SET calendar and a head that is due (R27 to R29, R33). A pass grant brings current the record at the head of the
pass's index, moves the pointer on, and touches nothing else (R29, R32, R109, R110). -/
def Obligations.PassesBringHeadCurrent : Prop :=
  (∀ s : State,
    let circle : List Requester := [.port, .line .line0, .line .line1, .line .line2, .line .line3, .expiryPass,
      .settlementPass]
    let granting := s.supply.state = .running ∧ s.supply.resetWaiting = false ∧ s.hold = none
    (¬granting → s.grant = none) ∧
    (∀ i, granting → circle[i]? = some s.pointer → s.grant = (circle.drop i ++ circle.take i).find? s.ready) ∧
    (s.ready .port = true ↔ s.port.state = .busy ∧ s.port.request.isSome = true) ∧
    (∀ n, s.ready (.line n) = true ↔ (s.lines.get n).inbound ≠ [] ∧ (s.lines.get n).outbound.length < 4) ∧
    (s.ready .expiryPass = true ↔ s.calendar.state = .known ∧
      ∃ d rest, s.engine.expiry = d :: rest ∧ d.instant ≤ s.calendar.districtMinute) ∧
    (s.ready .settlementPass = true ↔ s.calendar.state = .known ∧
      ∃ i rest, s.engine.settlement = i :: rest ∧ i.deadline ≤ s.calendar.districtMinute)) ∧
  (∀ (s : State) (w : Work),
    (∀ d rest, s.grant = some .expiryPass → s.engine.expiry = d :: rest → s.engine.find d.kit = .found w →
      exec .expiryPass s = .next { s with engine := (w.current s.instant).commit, pointer := .settlementPass }) ∧
    (∀ i rest, s.grant = some .settlementPass → s.engine.settlement = i :: rest → s.engine.find i.kit = .found w →
      exec .settlementPass s = .next { s with engine := (w.current s.instant).commit, pointer := .port }))

/-- MAIN_SUPPLY_GOOD_RISE and START_COMPLETE. After an invalid mark: a cold start from any state without power ends in the
reset state, the mark valid and the backup-low flag as the cell stands, and a fail warning found high leads to STOPPING with
the mark invalid (R185, R187, R189). A valid mark makes the start warm: tables, calendar and line settings are kept, the
rest takes its start values; a fail warning found high leads to STOPPING. The completion of any start makes the part
RUNNING and the mark valid, counts each line's quiet time anew, and leaves the port its state, buffers and flags; each event
is disregarded in the states that do not name it (R174, R181, R182; that a cold start ends in the reset state rests on log
entry 3, and for the model's own fields on 6, 8, 17 and 18). -/
def Obligations.StartsAreColdOrWarm : Prop :=
  (∀ (s : State) (low : Bool), s.supply.state = .unpowered ∨ s.supply.state = .retaining → s.supply.mark = false →
      ∃ t : State, exec (.mainSupplyGoodRise false low) s = .next t ∧ t.supply.state = .starting ∧ t.supply.mark = false ∧
        exec .startComplete t = .next { State.reset with
          supply := { State.reset.supply with backupLow := low }, freeIndex := s.freeIndex, pending := s.pending } ∧
        exec (.mainSupplyGoodRise true low) s = .next { State.reset with
          supply := ⟨.stopping, false, low, false⟩, port := { State.reset.port with earlier := [] }
          freeIndex := s.freeIndex, pending := s.pending }) ∧
  (∀ (s : State) (low : Bool),
      let started := { s with
        hold := none, pointer := .port, lines := s.lines.map (fun l => .started l.settings), port := .started, mask := .all
        supply := ⟨.starting, true, low, false⟩ }
      (s.supply.state = .retaining → s.supply.mark = true →
        exec (.mainSupplyGoodRise false low) s = .next started ∧
        exec (.mainSupplyGoodRise true low) s = .next { started with supply := ⟨.stopping, true, low, false⟩ }) ∧
      (s.supply.state ≠ .retaining → s.supply.state ≠ .unpowered →
        ∀ warning, exec (.mainSupplyGoodRise warning low) s = .next s)) ∧
  (∀ s : State,
      (s.supply.state = .starting → exec .startComplete s = .next { s with
        supply := { s.supply with state := .running, mark := true }
        lines := s.lines.map (fun l => { l with quiet := 0, looking := 0 })
        port := { s.port with
          earlier := ⟨.starting, s.port.state, s.port.overrun, s.port.torn⟩ :: s.port.earlier } }) ∧
      (s.supply.state ≠ .starting → exec .startComplete s = .next s))

/-- FAIL_WARNING_RISE in STARTING or RUNNING stops the part: queues, assembly and transmissions of the lines and both
buffers and the flags of the port are lost, a waiting restart does not take place, and tables, calendar, mask and what the
engine holds stand (R33, R174, R181, R185, R186, R188). MAIN_SUPPLY_GOOD_FALL: with the cell at the retention level or
above the part is RETAINING with its tables and calendar, otherwise UNPOWERED with nothing. The mark is kept after a fail
warning and with the engine idle, and invalid when no warning came and the engine holds a request, be it one that it holds
over several steps or, as the command says, the one that it has taken from the requester granted (with the reset input
asserted since or not, log entry 26). A time command on its way after a fail warning is carried out. How many settings
commands on their way to each line still arrive when no warning came and the engine is idle is a free value, so the
statement names no number (R159, R161, R185, R186; log entries 14 and 15; the values held without power are log entry 16,
the backup-low flag clear there log entry 28). -/
def Obligations.SupplyLossStopsAndRetains : Prop :=
  (∀ s : State,
      (s.supply.state = .running ∨ s.supply.state = .starting →
        exec .failWarningRise s = .next { s with
          supply := { s.supply with state := .stopping, resetWaiting := false }
          lines := s.lines.map (fun l =>
            { l with inbound := [], outbound := [], assembler := .hunt, transmitter := .idle })
          port := { s.port with
            state := .idle, request := none, response := none, overrun := false, torn := false, earlier := [] } }) ∧
      (s.supply.state ≠ .running → s.supply.state ≠ .starting → exec .failWarningRise s = .next s)) ∧
  (∀ (s : State) (cell taken : Bool),
      let unasserted := { s with supply := { s.supply with resetWaiting := false } }
      let holds := s.hold.isSome = true ∨ (taken = true ∧ unasserted.grant.isSome = true)
      let stands := fun (settings : LineNo → Settings) (calendar : Calendar) (mark : Bool) (free : Nat) =>
        exec (.mainSupplyGoodFall ⟨cell, taken⟩) s = .next (if cell then
          { s with
            hold := none, pointer := .port, calendar := calendar, lines := .of (fun n => .started (settings n))
            port := .started, mask := .all, supply := ⟨.retaining, mark, false, false⟩, freeIndex := free }
          else { State.reset with
            port := .started, supply := ⟨.unpowered, false, false, false⟩, freeIndex := free, pending := s.pending })
      let sent := fun (n : LineNo) (k : Nat) => (((s.lines.get n).inFlight.take k).filterMap (fun i => match i with
        | .settings x => some x
        | _ => none)).getLast?.getD (s.lines.get n).settings
      (s.supply.state = .stopping →
        stands (fun n => sent n (s.lines.get n).inFlight.length) (match s.hold with
          | some (.timeLoad _ d) => s.calendar.load d
          | some .align => s.calendar.align
          | some (.regulation v) => { s.calendar with regulation := v }
          | _ => s.calendar) s.supply.mark s.freeIndex) ∧
      (s.supply.state = .running ∨ s.supply.state = .starting → holds →
        stands (fun n => (s.lines.get n).settings) s.calendar false s.freeIndex) ∧
      (s.supply.state = .running ∨ s.supply.state = .starting → ¬holds →
        ∃ k : LineNo → Nat, stands (fun n => sent n (k n)) s.calendar s.supply.mark (s.freeIndex + 4)) ∧
      (s.supply.state = .unpowered ∨ s.supply.state = .retaining →
        exec (.mainSupplyGoodFall ⟨cell, taken⟩) s = .next s))

/-- The backup cell: below the retention level in RETAINING the part keeps nothing and the mark is invalid; the backup-low
flag follows the cell in STARTING, RUNNING and STOPPING, and is judged in no other state (R185, R187, R189; what the part
holds in UNPOWERED is log entry 16, that the flag is clear there log entry 28). -/
def Obligations.BackupCellIsWatched : Prop :=
  ∀ s : State,
    (s.supply.state = .retaining → exec .backupBelowRetention s = .next { State.reset with
      port := .started, supply := ⟨.unpowered, false, false, false⟩, freeIndex := s.freeIndex, pending := s.pending }) ∧
    (s.supply.state ≠ .retaining → exec .backupBelowRetention s = .next s) ∧
    (∀ low, s.supply.state ≠ .retaining → s.supply.state ≠ .unpowered →
      exec (.backupLowChange low) s = .next { s with supply := { s.supply with backupLow := low } }) ∧
    (∀ low, s.supply.state = .retaining ∨ s.supply.state = .unpowered → exec (.backupLowChange low) s = .next s)

/-- The reset input: an assertion in RUNNING makes a restart wait, so that no grant is made, and is disregarded elsewhere;
once the engine is idle the port, the lines, the arbiter and the mask restart, and tables, calendar, line settings and
mark are kept (R33, R174, R181, R188; that commands already on their way to a line still arrive is log entry
14, that a restart out of turn changes nothing log entry 2). -/
def Obligations.ResetInputRestarts : Prop :=
  ∀ s : State,
    (s.supply.state = .running →
      exec .resetAssert s = .next { s with supply := { s.supply with resetWaiting := true } } ∧
      State.grant { s with supply := { s.supply with resetWaiting := true } } = none) ∧
    (s.supply.state ≠ .running → exec .resetAssert s = .next s) ∧
    (s.supply.state = .running → s.supply.resetWaiting = true → s.hold = none →
      exec .resetRestart s = .next { s with
        pointer := .port, port := .started, mask := .all
        supply := { s.supply with resetWaiting := false }
        lines := s.lines.map (fun l => { Line.started l.settings with inFlight := l.inFlight }) }) ∧
    (s.supply.state ≠ .running ∨ s.supply.resetWaiting = false ∨ s.hold.isSome = true →
      exec .resetRestart s = .next s)

/-! ## Invariants -/

/-- Every command keeps the directory and the plans' reference counts exact (R2, R40). -/
def Obligations.DirectoryAndPlanCountsStayExact : Prop :=
  ∀ (c : Instr) (s s' : State), s.engine.plansWf → exec c s = .next s' → s'.engine.plansWf

/-- Every command keeps a record OWNED exactly while its confirmed total equals a price above 0, and keeps every record's
fields within the bounds they set one another (R5, R7, R10, R124). -/
def Obligations.RecordsStaySound : Prop :=
  ∀ (c : Instr) (s s' : State), s.engine.ownersWf → s.engine.recordsWf → exec c s = .next s' →
    s'.engine.ownersWf ∧ s'.engine.recordsWf

/-- Every command keeps the expiry index in order and exact (R107). -/
def Obligations.ExpiryIndexStaysExact : Prop :=
  ∀ (c : Instr) (s s' : State), s.engine.expiryWf → exec c s = .next s' → s'.engine.expiryWf

/-- Every command keeps the notice list exact (R114). -/
def Obligations.NoticeListStaysExact : Prop :=
  ∀ (c : Instr) (s s' : State), s.engine.noticesWf → exec c s = .next s' → s'.engine.noticesWf

/-- Every command keeps the payment pool exact, the settlement index in order and exact, and each agent's outstanding the sum
of its pending entries (R64 to R66, R90). -/
def Obligations.ProvisionalMoneyStaysExact : Prop :=
  ∀ (c : Instr) (s s' : State), s.engine.moneyWf → exec c s = .next s' → s'.engine.moneyWf

/-- Every command keeps the calendar on a real date, its district minute that of the date, and its counts in range (R145). -/
def Obligations.CalendarStaysValid : Prop :=
  ∀ (c : Instr) (s s' : State), s.calendarWf → exec c s = .next s' → s'.calendarWf

/-- Every command keeps the port, the engine and the supply monitor in agreement, given that what is on its way to the lines
agrees with what the engine holds, as LinesStayCoherent keeps it (R27, R33, R173, R176 to R181, R188). -/
def Obligations.PortStaysCoherent : Prop :=
  ∀ (c : Instr) (s s' : State), s.portWf → s.linesWf → exec c s = .next s' → s'.portWf

/-- Every command keeps the four lines within their queues, still when OFF, and in agreement with the engine (R160, R162,
R165, R168 to R170). -/
def Obligations.LinesStayCoherent : Prop :=
  ∀ (c : Instr) (s s' : State), s.linesWf → exec c s = .next s' → s'.linesWf

/-- What a command leaves of a record that is still in its slot: its offered and acknowledged numbers have not fallen,
paid-through once present is present, lifetime energy has not fallen, and an OWNED record is still OWNED (R5, R8, R10,
R124, R130). -/
def Obligations.RecordsNeverGoBack : Prop :=
  ∀ (c : Instr) (s s' : State) (slot : Nat) (r r' : Record),
    s.engine.plansWf → s.engine.recordsWf → exec c s = .next s' →
    s.engine.accounts.get slot = some r → s'.engine.accounts.get slot = some r' →
    r'.kit = r.kit ∧ r.offer.number ≤ r'.offer.number ∧ r.acked ≤ r'.acked ∧ r.energy ≤ r'.energy ∧
      (r.paid.isSome = true → r'.paid.isSome = true) ∧ (r.state = .owned → r'.state = .owned)
end

