-- ==== Sys2Proof/Laws/State.lean ====
section
/-! SUPPORT. One lemma for each field of State after each named update of State, and for each part of a record's work after
each named update of it. -/

namespace Sys2Proof.Machine

/-! ## State -/

@[simp] theorem State.takePort_engine (s : State) : s.takePort.engine = s.engine := rfl
@[simp] theorem State.takePort_hold (s : State) : s.takePort.hold = s.hold := rfl
@[simp] theorem State.takePort_pointer (s : State) : s.takePort.pointer = .line .line0 := rfl
@[simp] theorem State.takePort_calendar (s : State) : s.takePort.calendar = s.calendar := rfl
@[simp] theorem State.takePort_lines (s : State) : s.takePort.lines = s.lines := rfl
@[simp] theorem State.takePort_port (s : State) : s.takePort.port = { s.port with request := none } := rfl
@[simp] theorem State.takePort_mask (s : State) : s.takePort.mask = s.mask := rfl
@[simp] theorem State.takePort_supply (s : State) : s.takePort.supply = s.supply := rfl
@[simp] theorem State.takePort_freeIndex (s : State) : s.takePort.freeIndex = s.freeIndex := rfl
@[simp] theorem State.takePort_pending (s : State) : s.takePort.pending = s.pending := rfl

@[simp] theorem State.takeLine_engine (s : State) (n : LineNo) : (s.takeLine n).engine = s.engine := rfl
@[simp] theorem State.takeLine_hold (s : State) (n : LineNo) : (s.takeLine n).hold = s.hold := rfl
@[simp] theorem State.takeLine_pointer (s : State) (n : LineNo) : (s.takeLine n).pointer = (Requester.line n).next := rfl
@[simp] theorem State.takeLine_calendar (s : State) (n : LineNo) : (s.takeLine n).calendar = s.calendar := rfl
@[simp] theorem State.takeLine_lines (s : State) (n : LineNo) : (s.takeLine n).lines = s.lines.put n { s.lines.get n with inbound := (s.lines.get n).inbound.tail, take := .current } := rfl
@[simp] theorem State.takeLine_port (s : State) (n : LineNo) : (s.takeLine n).port = s.port := rfl
@[simp] theorem State.takeLine_mask (s : State) (n : LineNo) : (s.takeLine n).mask = s.mask := rfl
@[simp] theorem State.takeLine_supply (s : State) (n : LineNo) : (s.takeLine n).supply = s.supply := rfl
@[simp] theorem State.takeLine_freeIndex (s : State) (n : LineNo) : (s.takeLine n).freeIndex = s.freeIndex := rfl
@[simp] theorem State.takeLine_pending (s : State) (n : LineNo) : (s.takeLine n).pending = s.pending := rfl

@[simp] theorem State.holdPort_engine (s : State) (h : Hold) : (s.holdPort h).engine = s.engine := rfl
@[simp] theorem State.holdPort_hold (s : State) (h : Hold) : (s.holdPort h).hold = some h := rfl
@[simp] theorem State.holdPort_pointer (s : State) (h : Hold) : (s.holdPort h).pointer = .line .line0 := rfl
@[simp] theorem State.holdPort_calendar (s : State) (h : Hold) : (s.holdPort h).calendar = s.calendar := rfl
@[simp] theorem State.holdPort_lines (s : State) (h : Hold) : (s.holdPort h).lines = s.lines := rfl
@[simp] theorem State.holdPort_port (s : State) (h : Hold) : (s.holdPort h).port = { s.port with request := none } := rfl
@[simp] theorem State.holdPort_mask (s : State) (h : Hold) : (s.holdPort h).mask = s.mask := rfl
@[simp] theorem State.holdPort_supply (s : State) (h : Hold) : (s.holdPort h).supply = s.supply := rfl
@[simp] theorem State.holdPort_freeIndex (s : State) (h : Hold) : (s.holdPort h).freeIndex = s.freeIndex := rfl
@[simp] theorem State.holdPort_pending (s : State) (h : Hold) : (s.holdPort h).pending = s.pending := rfl

@[simp] theorem State.send_engine (s : State) (n : LineNo) (i : LineItem) : (s.send n i).engine = s.engine := rfl
@[simp] theorem State.send_hold (s : State) (n : LineNo) (i : LineItem) : (s.send n i).hold = s.hold := rfl
@[simp] theorem State.send_pointer (s : State) (n : LineNo) (i : LineItem) : (s.send n i).pointer = s.pointer := rfl
@[simp] theorem State.send_calendar (s : State) (n : LineNo) (i : LineItem) : (s.send n i).calendar = s.calendar := rfl
@[simp] theorem State.send_lines (s : State) (n : LineNo) (i : LineItem) : (s.send n i).lines = s.lines.put n { s.lines.get n with inFlight := (s.lines.get n).inFlight ++ [i] } := rfl
@[simp] theorem State.send_port (s : State) (n : LineNo) (i : LineItem) : (s.send n i).port = s.port := rfl
@[simp] theorem State.send_mask (s : State) (n : LineNo) (i : LineItem) : (s.send n i).mask = s.mask := rfl
@[simp] theorem State.send_supply (s : State) (n : LineNo) (i : LineItem) : (s.send n i).supply = s.supply := rfl
@[simp] theorem State.send_freeIndex (s : State) (n : LineNo) (i : LineItem) : (s.send n i).freeIndex = s.freeIndex := rfl
@[simp] theorem State.send_pending (s : State) (n : LineNo) (i : LineItem) : (s.send n i).pending = s.pending := rfl

@[simp] theorem State.onLine_engine (s : State) (n : LineNo) (f : Line → Line) : (s.onLine n f).engine = s.engine := rfl
@[simp] theorem State.onLine_hold (s : State) (n : LineNo) (f : Line → Line) : (s.onLine n f).hold = s.hold := rfl
@[simp] theorem State.onLine_pointer (s : State) (n : LineNo) (f : Line → Line) : (s.onLine n f).pointer = s.pointer := rfl
@[simp] theorem State.onLine_calendar (s : State) (n : LineNo) (f : Line → Line) : (s.onLine n f).calendar = s.calendar := rfl
@[simp] theorem State.onLine_lines (s : State) (n : LineNo) (f : Line → Line) : (s.onLine n f).lines = s.lines.put n (f (s.lines.get n)) := rfl
@[simp] theorem State.onLine_port (s : State) (n : LineNo) (f : Line → Line) : (s.onLine n f).port = s.port := rfl
@[simp] theorem State.onLine_mask (s : State) (n : LineNo) (f : Line → Line) : (s.onLine n f).mask = s.mask := rfl
@[simp] theorem State.onLine_supply (s : State) (n : LineNo) (f : Line → Line) : (s.onLine n f).supply = s.supply := rfl
@[simp] theorem State.onLine_freeIndex (s : State) (n : LineNo) (f : Line → Line) : (s.onLine n f).freeIndex = s.freeIndex := rfl
@[simp] theorem State.onLine_pending (s : State) (n : LineNo) (f : Line → Line) : (s.onLine n f).pending = s.pending := rfl

@[simp] theorem State.stop_engine (s : State) : s.stop.engine = s.engine := rfl
@[simp] theorem State.stop_hold (s : State) : s.stop.hold = s.hold := rfl
@[simp] theorem State.stop_pointer (s : State) : s.stop.pointer = s.pointer := rfl
@[simp] theorem State.stop_calendar (s : State) : s.stop.calendar = s.calendar := rfl
@[simp] theorem State.stop_lines (s : State) : s.stop.lines = s.lines.map Line.stopped := rfl
@[simp] theorem State.stop_port (s : State) : s.stop.port = s.port.stopped := rfl
@[simp] theorem State.stop_mask (s : State) : s.stop.mask = s.mask := rfl
@[simp] theorem State.stop_supply (s : State) : s.stop.supply = { s.supply with state := .stopping, resetWaiting := false } := rfl
@[simp] theorem State.stop_freeIndex (s : State) : s.stop.freeIndex = s.freeIndex := rfl
@[simp] theorem State.stop_pending (s : State) : s.stop.pending = s.pending := rfl

@[simp] theorem State.retained_engine (s : State) (f : LineNo → Settings) : (s.retained f).engine = s.engine := rfl
@[simp] theorem State.retained_hold (s : State) (f : LineNo → Settings) : (s.retained f).hold = none := rfl
@[simp] theorem State.retained_pointer (s : State) (f : LineNo → Settings) : (s.retained f).pointer = .port := rfl
@[simp] theorem State.retained_calendar (s : State) (f : LineNo → Settings) : (s.retained f).calendar = s.calendar := rfl
@[simp] theorem State.retained_lines (s : State) (f : LineNo → Settings) : (s.retained f).lines = .of (fun n => .started (f n)) := rfl
@[simp] theorem State.retained_port (s : State) (f : LineNo → Settings) : (s.retained f).port = .started := rfl
@[simp] theorem State.retained_mask (s : State) (f : LineNo → Settings) : (s.retained f).mask = .all := rfl
@[simp] theorem State.retained_supply (s : State) (f : LineNo → Settings) : (s.retained f).supply = ⟨.retaining, s.supply.mark, false, false⟩ := rfl
@[simp] theorem State.retained_freeIndex (s : State) (f : LineNo → Settings) : (s.retained f).freeIndex = s.freeIndex := rfl
@[simp] theorem State.retained_pending (s : State) (f : LineNo → Settings) : (s.retained f).pending = s.pending := rfl

@[simp] theorem State.unpowered_engine (s : State) : s.unpowered.engine = .cold := rfl
@[simp] theorem State.unpowered_hold (s : State) : s.unpowered.hold = none := rfl
@[simp] theorem State.unpowered_pointer (s : State) : s.unpowered.pointer = .port := rfl
@[simp] theorem State.unpowered_calendar (s : State) : s.unpowered.calendar = .cold := rfl
@[simp] theorem State.unpowered_lines (s : State) : s.unpowered.lines = .cold := rfl
@[simp] theorem State.unpowered_port (s : State) : s.unpowered.port = .started := rfl
@[simp] theorem State.unpowered_mask (s : State) : s.unpowered.mask = .all := rfl
@[simp] theorem State.unpowered_supply (s : State) : s.unpowered.supply = ⟨.unpowered, false, false, false⟩ := rfl
@[simp] theorem State.unpowered_freeIndex (s : State) : s.unpowered.freeIndex = s.freeIndex := rfl
@[simp] theorem State.unpowered_pending (s : State) : s.unpowered.pending = s.pending := rfl

@[simp] theorem State.starting_engine (s : State) (low : Bool) : (s.starting low).engine = s.engine := rfl
@[simp] theorem State.starting_hold (s : State) (low : Bool) : (s.starting low).hold = none := rfl
@[simp] theorem State.starting_pointer (s : State) (low : Bool) : (s.starting low).pointer = .port := rfl
@[simp] theorem State.starting_calendar (s : State) (low : Bool) : (s.starting low).calendar = s.calendar := rfl
@[simp] theorem State.starting_lines (s : State) (low : Bool) : (s.starting low).lines = s.lines.map (fun l => .started l.settings) := rfl
@[simp] theorem State.starting_port (s : State) (low : Bool) : (s.starting low).port = .started := rfl
@[simp] theorem State.starting_mask (s : State) (low : Bool) : (s.starting low).mask = .all := rfl
@[simp] theorem State.starting_supply (s : State) (low : Bool) : (s.starting low).supply = ⟨.starting, s.supply.mark, low, false⟩ := rfl
@[simp] theorem State.starting_freeIndex (s : State) (low : Bool) : (s.starting low).freeIndex = s.freeIndex := rfl
@[simp] theorem State.starting_pending (s : State) (low : Bool) : (s.starting low).pending = s.pending := rfl

@[simp] theorem State.coldStart_engine (s : State) : s.coldStart.engine = .cold := rfl
@[simp] theorem State.coldStart_hold (s : State) : s.coldStart.hold = s.hold := rfl
@[simp] theorem State.coldStart_pointer (s : State) : s.coldStart.pointer = s.pointer := rfl
@[simp] theorem State.coldStart_calendar (s : State) : s.coldStart.calendar = .cold := rfl
@[simp] theorem State.coldStart_lines (s : State) : s.coldStart.lines = .cold := rfl
@[simp] theorem State.coldStart_port (s : State) : s.coldStart.port = s.port := rfl
@[simp] theorem State.coldStart_mask (s : State) : s.coldStart.mask = s.mask := rfl
@[simp] theorem State.coldStart_supply (s : State) : s.coldStart.supply = s.supply := rfl
@[simp] theorem State.coldStart_freeIndex (s : State) : s.coldStart.freeIndex = s.freeIndex := rfl
@[simp] theorem State.coldStart_pending (s : State) : s.coldStart.pending = s.pending := rfl

@[simp] theorem State.responded_engine (s : State) (e : Engine) (r : Response) : (s.responded e r).engine = e := rfl
@[simp] theorem State.responded_hold (s : State) (e : Engine) (r : Response) : (s.responded e r).hold = s.hold := rfl
@[simp] theorem State.responded_pointer (s : State) (e : Engine) (r : Response) : (s.responded e r).pointer = .line .line0 := rfl
@[simp] theorem State.responded_calendar (s : State) (e : Engine) (r : Response) : (s.responded e r).calendar = s.calendar := rfl
@[simp] theorem State.responded_lines (s : State) (e : Engine) (r : Response) : (s.responded e r).lines = s.lines := rfl
@[simp] theorem State.responded_port (s : State) (e : Engine) (r : Response) : (s.responded e r).port = { s.port with state := .ready, request := none, response := some r, earlier := s.statuses } := rfl
@[simp] theorem State.responded_mask (s : State) (e : Engine) (r : Response) : (s.responded e r).mask = s.mask := rfl
@[simp] theorem State.responded_supply (s : State) (e : Engine) (r : Response) : (s.responded e r).supply = s.supply := rfl
@[simp] theorem State.responded_freeIndex (s : State) (e : Engine) (r : Response) : (s.responded e r).freeIndex = s.freeIndex := rfl
@[simp] theorem State.responded_pending (s : State) (e : Engine) (r : Response) : (s.responded e r).pending = s.pending := rfl

@[simp] theorem State.heldFor_engine (s : State) (h : Hold) : (s.heldFor h).engine = s.engine := rfl
@[simp] theorem State.heldFor_hold (s : State) (h : Hold) : (s.heldFor h).hold = some h := rfl
@[simp] theorem State.heldFor_pointer (s : State) (h : Hold) : (s.heldFor h).pointer = .line .line0 := rfl
@[simp] theorem State.heldFor_calendar (s : State) (h : Hold) : (s.heldFor h).calendar = s.calendar := rfl
@[simp] theorem State.heldFor_lines (s : State) (h : Hold) : (s.heldFor h).lines = s.lines := rfl
@[simp] theorem State.heldFor_port (s : State) (h : Hold) : (s.heldFor h).port = { s.port with request := none } := rfl
@[simp] theorem State.heldFor_mask (s : State) (h : Hold) : (s.heldFor h).mask = s.mask := rfl
@[simp] theorem State.heldFor_supply (s : State) (h : Hold) : (s.heldFor h).supply = s.supply := rfl
@[simp] theorem State.heldFor_freeIndex (s : State) (h : Hold) : (s.heldFor h).freeIndex = s.freeIndex := rfl
@[simp] theorem State.heldFor_pending (s : State) (h : Hold) : (s.heldFor h).pending = s.pending := rfl

@[simp] theorem State.released_engine (s : State) (r : Response) : (s.released r).engine = s.engine := rfl
@[simp] theorem State.released_hold (s : State) (r : Response) : (s.released r).hold = none := rfl
@[simp] theorem State.released_pointer (s : State) (r : Response) : (s.released r).pointer = s.pointer := rfl
@[simp] theorem State.released_calendar (s : State) (r : Response) : (s.released r).calendar = s.calendar := rfl
@[simp] theorem State.released_lines (s : State) (r : Response) : (s.released r).lines = s.lines := rfl
@[simp] theorem State.released_port (s : State) (r : Response) : (s.released r).port = { s.port with state := .ready, response := some r, earlier := s.statuses } := rfl
@[simp] theorem State.released_mask (s : State) (r : Response) : (s.released r).mask = s.mask := rfl
@[simp] theorem State.released_supply (s : State) (r : Response) : (s.released r).supply = s.supply := rfl
@[simp] theorem State.released_freeIndex (s : State) (r : Response) : (s.released r).freeIndex = s.freeIndex := rfl
@[simp] theorem State.released_pending (s : State) (r : Response) : (s.released r).pending = s.pending := rfl

@[simp] theorem State.withLine_engine (s : State) (n : LineNo) (l : Line) : (s.withLine n l).engine = s.engine := rfl
@[simp] theorem State.withLine_hold (s : State) (n : LineNo) (l : Line) : (s.withLine n l).hold = s.hold := rfl
@[simp] theorem State.withLine_pointer (s : State) (n : LineNo) (l : Line) : (s.withLine n l).pointer = s.pointer := rfl
@[simp] theorem State.withLine_calendar (s : State) (n : LineNo) (l : Line) : (s.withLine n l).calendar = s.calendar := rfl
@[simp] theorem State.withLine_lines (s : State) (n : LineNo) (l : Line) : (s.withLine n l).lines = s.lines.put n l := rfl
@[simp] theorem State.withLine_port (s : State) (n : LineNo) (l : Line) : (s.withLine n l).port = s.port := rfl
@[simp] theorem State.withLine_mask (s : State) (n : LineNo) (l : Line) : (s.withLine n l).mask = s.mask := rfl
@[simp] theorem State.withLine_supply (s : State) (n : LineNo) (l : Line) : (s.withLine n l).supply = s.supply := rfl
@[simp] theorem State.withLine_freeIndex (s : State) (n : LineNo) (l : Line) : (s.withLine n l).freeIndex = s.freeIndex := rfl
@[simp] theorem State.withLine_pending (s : State) (n : LineNo) (l : Line) : (s.withLine n l).pending = s.pending := rfl

@[simp] theorem State.sending_engine (s : State) (n : LineNo) (e : Engine) (d : Delivery) : (s.sending n e d).engine = e := rfl
@[simp] theorem State.sending_hold (s : State) (n : LineNo) (e : Engine) (d : Delivery) : (s.sending n e d).hold = some (.message n) := rfl
@[simp] theorem State.sending_pointer (s : State) (n : LineNo) (e : Engine) (d : Delivery) : (s.sending n e d).pointer = (Requester.line n).next := rfl
@[simp] theorem State.sending_calendar (s : State) (n : LineNo) (e : Engine) (d : Delivery) : (s.sending n e d).calendar = s.calendar := rfl
@[simp] theorem State.sending_lines (s : State) (n : LineNo) (e : Engine) (d : Delivery) : (s.sending n e d).lines = s.lines.put n { s.lines.get n with inbound := (s.lines.get n).inbound.tail, take := .current, inFlight := (s.lines.get n).inFlight ++ [.delivery d] } := rfl
@[simp] theorem State.sending_port (s : State) (n : LineNo) (e : Engine) (d : Delivery) : (s.sending n e d).port = s.port := rfl
@[simp] theorem State.sending_mask (s : State) (n : LineNo) (e : Engine) (d : Delivery) : (s.sending n e d).mask = s.mask := rfl
@[simp] theorem State.sending_supply (s : State) (n : LineNo) (e : Engine) (d : Delivery) : (s.sending n e d).supply = s.supply := rfl
@[simp] theorem State.sending_freeIndex (s : State) (n : LineNo) (e : Engine) (d : Delivery) : (s.sending n e d).freeIndex = s.freeIndex := rfl
@[simp] theorem State.sending_pending (s : State) (n : LineNo) (e : Engine) (d : Delivery) : (s.sending n e d).pending = s.pending := rfl

@[simp] theorem State.silenced_engine (s : State) (n : LineNo) (e : Engine) : (s.silenced n e).engine = e := rfl
@[simp] theorem State.silenced_hold (s : State) (n : LineNo) (e : Engine) : (s.silenced n e).hold = s.hold := rfl
@[simp] theorem State.silenced_pointer (s : State) (n : LineNo) (e : Engine) : (s.silenced n e).pointer = (Requester.line n).next := rfl
@[simp] theorem State.silenced_calendar (s : State) (n : LineNo) (e : Engine) : (s.silenced n e).calendar = s.calendar := rfl
@[simp] theorem State.silenced_lines (s : State) (n : LineNo) (e : Engine) : (s.silenced n e).lines = s.lines.put n { s.lines.get n with inbound := (s.lines.get n).inbound.tail, take := .none } := rfl
@[simp] theorem State.silenced_port (s : State) (n : LineNo) (e : Engine) : (s.silenced n e).port = s.port := rfl
@[simp] theorem State.silenced_mask (s : State) (n : LineNo) (e : Engine) : (s.silenced n e).mask = s.mask := rfl
@[simp] theorem State.silenced_supply (s : State) (n : LineNo) (e : Engine) : (s.silenced n e).supply = s.supply := rfl
@[simp] theorem State.silenced_freeIndex (s : State) (n : LineNo) (e : Engine) : (s.silenced n e).freeIndex = s.freeIndex := rfl
@[simp] theorem State.silenced_pending (s : State) (n : LineNo) (e : Engine) : (s.silenced n e).pending = s.pending := rfl

/-! Delivering a response touches the port alone; completing a held request also empties the hold. -/

@[simp] theorem State.deliver_engine (s : State) (r : Response) : (s.deliver r).engine = s.engine := by
  unfold State.deliver; split <;> rfl
@[simp] theorem State.complete_engine (s : State) (r : Response) : (s.complete r).engine = s.engine := by
  simp [State.complete]
@[simp] theorem State.deliver_hold (s : State) (r : Response) : (s.deliver r).hold = s.hold := by
  unfold State.deliver; split <;> rfl
@[simp] theorem State.complete_hold (s : State) (r : Response) : (s.complete r).hold = none := by
  simp [State.complete]
@[simp] theorem State.deliver_pointer (s : State) (r : Response) : (s.deliver r).pointer = s.pointer := by
  unfold State.deliver; split <;> rfl
@[simp] theorem State.complete_pointer (s : State) (r : Response) : (s.complete r).pointer = s.pointer := by
  simp [State.complete]
@[simp] theorem State.deliver_calendar (s : State) (r : Response) : (s.deliver r).calendar = s.calendar := by
  unfold State.deliver; split <;> rfl
@[simp] theorem State.complete_calendar (s : State) (r : Response) : (s.complete r).calendar = s.calendar := by
  simp [State.complete]
@[simp] theorem State.deliver_lines (s : State) (r : Response) : (s.deliver r).lines = s.lines := by
  unfold State.deliver; split <;> rfl
@[simp] theorem State.complete_lines (s : State) (r : Response) : (s.complete r).lines = s.lines := by
  simp [State.complete]
@[simp] theorem State.deliver_mask (s : State) (r : Response) : (s.deliver r).mask = s.mask := by
  unfold State.deliver; split <;> rfl
@[simp] theorem State.complete_mask (s : State) (r : Response) : (s.complete r).mask = s.mask := by
  simp [State.complete]
@[simp] theorem State.deliver_supply (s : State) (r : Response) : (s.deliver r).supply = s.supply := by
  unfold State.deliver; split <;> rfl
@[simp] theorem State.complete_supply (s : State) (r : Response) : (s.complete r).supply = s.supply := by
  simp [State.complete]
@[simp] theorem State.deliver_freeIndex (s : State) (r : Response) : (s.deliver r).freeIndex = s.freeIndex := by
  unfold State.deliver; split <;> rfl
@[simp] theorem State.complete_freeIndex (s : State) (r : Response) : (s.complete r).freeIndex = s.freeIndex := by
  simp [State.complete]
@[simp] theorem State.deliver_pending (s : State) (r : Response) : (s.deliver r).pending = s.pending := by
  unfold State.deliver; split <;> rfl
@[simp] theorem State.complete_pending (s : State) (r : Response) : (s.complete r).pending = s.pending := by
  simp [State.complete]

/-! ## The work on one record -/

@[simp] theorem Work.raise_engine_accounts (w : Work) (n : Notice) : (w.raise n).engine.accounts = w.engine.accounts := rfl
@[simp] theorem Work.raise_engine_directory (w : Work) (n : Notice) : (w.raise n).engine.directory = w.engine.directory := rfl
@[simp] theorem Work.raise_engine_plans (w : Work) (n : Notice) : (w.raise n).engine.plans = w.engine.plans := rfl
@[simp] theorem Work.raise_engine_agents (w : Work) (n : Notice) : (w.raise n).engine.agents = w.engine.agents := rfl
@[simp] theorem Work.raise_engine_poolFree (w : Work) (n : Notice) : (w.raise n).engine.poolFree = w.engine.poolFree := rfl
@[simp] theorem Work.raise_engine_expiry (w : Work) (n : Notice) : (w.raise n).engine.expiry = w.engine.expiry := rfl
@[simp] theorem Work.raise_engine_settlement (w : Work) (n : Notice) : (w.raise n).engine.settlement = w.engine.settlement := rfl
@[simp] theorem Work.raise_engine_notices (w : Work) (n : Notice) : (w.raise n).engine.notices = if w.record.notices = .clear then w.engine.notices ++ [w.record.kit] else w.engine.notices := rfl
@[simp] theorem Work.raise_slot (w : Work) (n : Notice) : (w.raise n).slot = w.slot := rfl
@[simp] theorem Work.raise_plan (w : Work) (n : Notice) : (w.raise n).plan = w.plan := rfl
@[simp] theorem Work.raise_record_kit (w : Work) (n : Notice) : (w.raise n).record.kit = w.record.kit := rfl
@[simp] theorem Work.raise_record_state (w : Work) (n : Notice) : (w.raise n).record.state = w.record.state := rfl
@[simp] theorem Work.raise_record_reason (w : Work) (n : Notice) : (w.raise n).record.reason = w.record.reason := rfl
@[simp] theorem Work.raise_record_plan (w : Work) (n : Notice) : (w.raise n).record.plan = w.record.plan := rfl
@[simp] theorem Work.raise_record_key (w : Work) (n : Notice) : (w.raise n).record.key = w.record.key := rfl
@[simp] theorem Work.raise_record_paid (w : Work) (n : Notice) : (w.raise n).record.paid = w.record.paid := rfl
@[simp] theorem Work.raise_record_residue (w : Work) (n : Notice) : (w.raise n).record.residue = w.record.residue := rfl
@[simp] theorem Work.raise_record_confirmed (w : Work) (n : Notice) : (w.raise n).record.confirmed = w.record.confirmed := rfl
@[simp] theorem Work.raise_record_pending (w : Work) (n : Notice) : (w.raise n).record.pending = w.record.pending := rfl
@[simp] theorem Work.raise_record_offer (w : Work) (n : Notice) : (w.raise n).record.offer = w.record.offer := rfl
@[simp] theorem Work.raise_record_acked (w : Work) (n : Notice) : (w.raise n).record.acked = w.record.acked := rfl
@[simp] theorem Work.raise_record_reminded (w : Work) (n : Notice) : (w.raise n).record.reminded = w.record.reminded := rfl
@[simp] theorem Work.raise_record_lastCheckIn (w : Work) (n : Notice) : (w.raise n).record.lastCheckIn = w.record.lastCheckIn := rfl
@[simp] theorem Work.raise_record_energy (w : Work) (n : Notice) : (w.raise n).record.energy = w.record.energy := rfl
@[simp] theorem Work.raise_record_kitFlags (w : Work) (n : Notice) : (w.raise n).record.kitFlags = w.record.kitFlags := rfl
@[simp] theorem Work.raise_record_badChecks (w : Work) (n : Notice) : (w.raise n).record.badChecks = w.record.badChecks := rfl
@[simp] theorem Work.raise_record_notices (w : Work) (n : Notice) : (w.raise n).record.notices = w.record.notices.raise n := rfl
@[simp] theorem Work.raise_record_due (w : Work) (n : Notice) : (w.raise n).record.due = w.record.due := rfl

@[simp] theorem Work.rekey_engine_accounts (w : Work) : w.rekey.engine.accounts = w.engine.accounts := rfl
@[simp] theorem Work.rekey_engine_directory (w : Work) : w.rekey.engine.directory = w.engine.directory := rfl
@[simp] theorem Work.rekey_engine_plans (w : Work) : w.rekey.engine.plans = w.engine.plans := rfl
@[simp] theorem Work.rekey_engine_agents (w : Work) : w.rekey.engine.agents = w.engine.agents := rfl
@[simp] theorem Work.rekey_engine_poolFree (w : Work) : w.rekey.engine.poolFree = w.engine.poolFree := rfl
@[simp] theorem Work.rekey_engine_expiry (w : Work) : w.rekey.engine.expiry = rekeyed w.engine.expiry w.record.kit w.slot (w.record.dueFor w.plan) := rfl
@[simp] theorem Work.rekey_engine_settlement (w : Work) : w.rekey.engine.settlement = w.engine.settlement := rfl
@[simp] theorem Work.rekey_engine_notices (w : Work) : w.rekey.engine.notices = w.engine.notices := rfl
@[simp] theorem Work.rekey_slot (w : Work) : w.rekey.slot = w.slot := rfl
@[simp] theorem Work.rekey_plan (w : Work) : w.rekey.plan = w.plan := rfl
@[simp] theorem Work.rekey_record_kit (w : Work) : w.rekey.record.kit = w.record.kit := rfl
@[simp] theorem Work.rekey_record_state (w : Work) : w.rekey.record.state = w.record.state := rfl
@[simp] theorem Work.rekey_record_reason (w : Work) : w.rekey.record.reason = w.record.reason := rfl
@[simp] theorem Work.rekey_record_plan (w : Work) : w.rekey.record.plan = w.record.plan := rfl
@[simp] theorem Work.rekey_record_key (w : Work) : w.rekey.record.key = w.record.key := rfl
@[simp] theorem Work.rekey_record_paid (w : Work) : w.rekey.record.paid = w.record.paid := rfl
@[simp] theorem Work.rekey_record_residue (w : Work) : w.rekey.record.residue = w.record.residue := rfl
@[simp] theorem Work.rekey_record_confirmed (w : Work) : w.rekey.record.confirmed = w.record.confirmed := rfl
@[simp] theorem Work.rekey_record_pending (w : Work) : w.rekey.record.pending = w.record.pending := rfl
@[simp] theorem Work.rekey_record_offer (w : Work) : w.rekey.record.offer = w.record.offer := rfl
@[simp] theorem Work.rekey_record_acked (w : Work) : w.rekey.record.acked = w.record.acked := rfl
@[simp] theorem Work.rekey_record_reminded (w : Work) : w.rekey.record.reminded = w.record.reminded := rfl
@[simp] theorem Work.rekey_record_lastCheckIn (w : Work) : w.rekey.record.lastCheckIn = w.record.lastCheckIn := rfl
@[simp] theorem Work.rekey_record_energy (w : Work) : w.rekey.record.energy = w.record.energy := rfl
@[simp] theorem Work.rekey_record_kitFlags (w : Work) : w.rekey.record.kitFlags = w.record.kitFlags := rfl
@[simp] theorem Work.rekey_record_badChecks (w : Work) : w.rekey.record.badChecks = w.record.badChecks := rfl
@[simp] theorem Work.rekey_record_notices (w : Work) : w.rekey.record.notices = w.record.notices := rfl
@[simp] theorem Work.rekey_record_due (w : Work) : w.rekey.record.due = w.record.dueFor w.plan := rfl

@[simp] theorem Work.unkey_engine_accounts (w : Work) : w.unkey.engine.accounts = w.engine.accounts := rfl
@[simp] theorem Work.unkey_engine_directory (w : Work) : w.unkey.engine.directory = w.engine.directory := rfl
@[simp] theorem Work.unkey_engine_plans (w : Work) : w.unkey.engine.plans = w.engine.plans := rfl
@[simp] theorem Work.unkey_engine_agents (w : Work) : w.unkey.engine.agents = w.engine.agents := rfl
@[simp] theorem Work.unkey_engine_poolFree (w : Work) : w.unkey.engine.poolFree = w.engine.poolFree := rfl
@[simp] theorem Work.unkey_engine_expiry (w : Work) : w.unkey.engine.expiry = dueRemove w.record.kit w.engine.expiry := rfl
@[simp] theorem Work.unkey_engine_settlement (w : Work) : w.unkey.engine.settlement = w.engine.settlement := rfl
@[simp] theorem Work.unkey_engine_notices (w : Work) : w.unkey.engine.notices = w.engine.notices := rfl
@[simp] theorem Work.unkey_slot (w : Work) : w.unkey.slot = w.slot := rfl
@[simp] theorem Work.unkey_plan (w : Work) : w.unkey.plan = w.plan := rfl
@[simp] theorem Work.unkey_record_kit (w : Work) : w.unkey.record.kit = w.record.kit := rfl
@[simp] theorem Work.unkey_record_state (w : Work) : w.unkey.record.state = w.record.state := rfl
@[simp] theorem Work.unkey_record_reason (w : Work) : w.unkey.record.reason = w.record.reason := rfl
@[simp] theorem Work.unkey_record_plan (w : Work) : w.unkey.record.plan = w.record.plan := rfl
@[simp] theorem Work.unkey_record_key (w : Work) : w.unkey.record.key = w.record.key := rfl
@[simp] theorem Work.unkey_record_paid (w : Work) : w.unkey.record.paid = w.record.paid := rfl
@[simp] theorem Work.unkey_record_residue (w : Work) : w.unkey.record.residue = w.record.residue := rfl
@[simp] theorem Work.unkey_record_confirmed (w : Work) : w.unkey.record.confirmed = w.record.confirmed := rfl
@[simp] theorem Work.unkey_record_pending (w : Work) : w.unkey.record.pending = w.record.pending := rfl
@[simp] theorem Work.unkey_record_offer (w : Work) : w.unkey.record.offer = w.record.offer := rfl
@[simp] theorem Work.unkey_record_acked (w : Work) : w.unkey.record.acked = w.record.acked := rfl
@[simp] theorem Work.unkey_record_reminded (w : Work) : w.unkey.record.reminded = w.record.reminded := rfl
@[simp] theorem Work.unkey_record_lastCheckIn (w : Work) : w.unkey.record.lastCheckIn = w.record.lastCheckIn := rfl
@[simp] theorem Work.unkey_record_energy (w : Work) : w.unkey.record.energy = w.record.energy := rfl
@[simp] theorem Work.unkey_record_kitFlags (w : Work) : w.unkey.record.kitFlags = w.record.kitFlags := rfl
@[simp] theorem Work.unkey_record_badChecks (w : Work) : w.unkey.record.badChecks = w.record.badChecks := rfl
@[simp] theorem Work.unkey_record_notices (w : Work) : w.unkey.record.notices = w.record.notices := rfl
@[simp] theorem Work.unkey_record_due (w : Work) : w.unkey.record.due = none := rfl

@[simp] theorem Work.recompute_engine_accounts (w : Work) (t : Nat) : (w.recompute t).engine.accounts = w.engine.accounts := rfl
@[simp] theorem Work.recompute_engine_directory (w : Work) (t : Nat) : (w.recompute t).engine.directory = w.engine.directory := rfl
@[simp] theorem Work.recompute_engine_plans (w : Work) (t : Nat) : (w.recompute t).engine.plans = w.engine.plans := rfl
@[simp] theorem Work.recompute_engine_agents (w : Work) (t : Nat) : (w.recompute t).engine.agents = w.engine.agents := rfl
@[simp] theorem Work.recompute_engine_poolFree (w : Work) (t : Nat) : (w.recompute t).engine.poolFree = w.engine.poolFree := rfl
@[simp] theorem Work.recompute_engine_expiry (w : Work) (t : Nat) : (w.recompute t).engine.expiry = w.engine.expiry := rfl
@[simp] theorem Work.recompute_engine_settlement (w : Work) (t : Nat) : (w.recompute t).engine.settlement = w.engine.settlement := rfl
@[simp] theorem Work.recompute_engine_notices (w : Work) (t : Nat) : (w.recompute t).engine.notices = w.engine.notices := rfl
@[simp] theorem Work.recompute_slot (w : Work) (t : Nat) : (w.recompute t).slot = w.slot := rfl
@[simp] theorem Work.recompute_plan (w : Work) (t : Nat) : (w.recompute t).plan = w.plan := rfl
@[simp] theorem Work.recompute_record_kit (w : Work) (t : Nat) : (w.recompute t).record.kit = w.record.kit := rfl
@[simp] theorem Work.recompute_record_state (w : Work) (t : Nat) : (w.recompute t).record.state = w.record.recomputed w.plan t := rfl
@[simp] theorem Work.recompute_record_reason (w : Work) (t : Nat) : (w.recompute t).record.reason = w.record.reason := rfl
@[simp] theorem Work.recompute_record_plan (w : Work) (t : Nat) : (w.recompute t).record.plan = w.record.plan := rfl
@[simp] theorem Work.recompute_record_key (w : Work) (t : Nat) : (w.recompute t).record.key = w.record.key := rfl
@[simp] theorem Work.recompute_record_paid (w : Work) (t : Nat) : (w.recompute t).record.paid = w.record.paid := rfl
@[simp] theorem Work.recompute_record_residue (w : Work) (t : Nat) : (w.recompute t).record.residue = w.record.residue := rfl
@[simp] theorem Work.recompute_record_confirmed (w : Work) (t : Nat) : (w.recompute t).record.confirmed = w.record.confirmed := rfl
@[simp] theorem Work.recompute_record_pending (w : Work) (t : Nat) : (w.recompute t).record.pending = w.record.pending := rfl
@[simp] theorem Work.recompute_record_offer (w : Work) (t : Nat) : (w.recompute t).record.offer = w.record.offer := rfl
@[simp] theorem Work.recompute_record_acked (w : Work) (t : Nat) : (w.recompute t).record.acked = w.record.acked := rfl
@[simp] theorem Work.recompute_record_reminded (w : Work) (t : Nat) : (w.recompute t).record.reminded = w.record.reminded := rfl
@[simp] theorem Work.recompute_record_lastCheckIn (w : Work) (t : Nat) : (w.recompute t).record.lastCheckIn = w.record.lastCheckIn := rfl
@[simp] theorem Work.recompute_record_energy (w : Work) (t : Nat) : (w.recompute t).record.energy = w.record.energy := rfl
@[simp] theorem Work.recompute_record_kitFlags (w : Work) (t : Nat) : (w.recompute t).record.kitFlags = w.record.kitFlags := rfl
@[simp] theorem Work.recompute_record_badChecks (w : Work) (t : Nat) : (w.recompute t).record.badChecks = w.record.badChecks := rfl
@[simp] theorem Work.recompute_record_notices (w : Work) (t : Nat) : (w.recompute t).record.notices = w.record.notices := rfl
@[simp] theorem Work.recompute_record_due (w : Work) (t : Nat) : (w.recompute t).record.due = w.record.due := rfl

@[simp] theorem Work.dropEntry_engine_accounts (w : Work) (en : Entry) : (w.dropEntry en).engine.accounts = w.engine.accounts := rfl
@[simp] theorem Work.dropEntry_engine_directory (w : Work) (en : Entry) : (w.dropEntry en).engine.directory = w.engine.directory := rfl
@[simp] theorem Work.dropEntry_engine_plans (w : Work) (en : Entry) : (w.dropEntry en).engine.plans = w.engine.plans := rfl
@[simp] theorem Work.dropEntry_engine_agents (w : Work) (en : Entry) : (w.dropEntry en).engine.agents = w.engine.agents := rfl
@[simp] theorem Work.dropEntry_engine_poolFree (w : Work) (en : Entry) : (w.dropEntry en).engine.poolFree = w.engine.poolFree + 1 := rfl
@[simp] theorem Work.dropEntry_engine_expiry (w : Work) (en : Entry) : (w.dropEntry en).engine.expiry = w.engine.expiry := rfl
@[simp] theorem Work.dropEntry_engine_settlement (w : Work) (en : Entry) : (w.dropEntry en).engine.settlement = settleRemove w.record.kit en.reference w.engine.settlement := rfl
@[simp] theorem Work.dropEntry_engine_notices (w : Work) (en : Entry) : (w.dropEntry en).engine.notices = w.engine.notices := rfl
@[simp] theorem Work.dropEntry_slot (w : Work) (en : Entry) : (w.dropEntry en).slot = w.slot := rfl
@[simp] theorem Work.dropEntry_plan (w : Work) (en : Entry) : (w.dropEntry en).plan = w.plan := rfl
@[simp] theorem Work.dropEntry_record_kit (w : Work) (en : Entry) : (w.dropEntry en).record.kit = w.record.kit := rfl
@[simp] theorem Work.dropEntry_record_state (w : Work) (en : Entry) : (w.dropEntry en).record.state = w.record.state := rfl
@[simp] theorem Work.dropEntry_record_reason (w : Work) (en : Entry) : (w.dropEntry en).record.reason = w.record.reason := rfl
@[simp] theorem Work.dropEntry_record_plan (w : Work) (en : Entry) : (w.dropEntry en).record.plan = w.record.plan := rfl
@[simp] theorem Work.dropEntry_record_key (w : Work) (en : Entry) : (w.dropEntry en).record.key = w.record.key := rfl
@[simp] theorem Work.dropEntry_record_paid (w : Work) (en : Entry) : (w.dropEntry en).record.paid = w.record.paid := rfl
@[simp] theorem Work.dropEntry_record_residue (w : Work) (en : Entry) : (w.dropEntry en).record.residue = w.record.residue := rfl
@[simp] theorem Work.dropEntry_record_confirmed (w : Work) (en : Entry) : (w.dropEntry en).record.confirmed = w.record.confirmed := rfl
@[simp] theorem Work.dropEntry_record_pending (w : Work) (en : Entry) : (w.dropEntry en).record.pending = removeEntry en.reference w.record.pending := rfl
@[simp] theorem Work.dropEntry_record_offer (w : Work) (en : Entry) : (w.dropEntry en).record.offer = w.record.offer := rfl
@[simp] theorem Work.dropEntry_record_acked (w : Work) (en : Entry) : (w.dropEntry en).record.acked = w.record.acked := rfl
@[simp] theorem Work.dropEntry_record_reminded (w : Work) (en : Entry) : (w.dropEntry en).record.reminded = w.record.reminded := rfl
@[simp] theorem Work.dropEntry_record_lastCheckIn (w : Work) (en : Entry) : (w.dropEntry en).record.lastCheckIn = w.record.lastCheckIn := rfl
@[simp] theorem Work.dropEntry_record_energy (w : Work) (en : Entry) : (w.dropEntry en).record.energy = w.record.energy := rfl
@[simp] theorem Work.dropEntry_record_kitFlags (w : Work) (en : Entry) : (w.dropEntry en).record.kitFlags = w.record.kitFlags := rfl
@[simp] theorem Work.dropEntry_record_badChecks (w : Work) (en : Entry) : (w.dropEntry en).record.badChecks = w.record.badChecks := rfl
@[simp] theorem Work.dropEntry_record_notices (w : Work) (en : Entry) : (w.dropEntry en).record.notices = w.record.notices := rfl
@[simp] theorem Work.dropEntry_record_due (w : Work) (en : Entry) : (w.dropEntry en).record.due = w.record.due := rfl

@[simp] theorem Work.becomeOwned_engine_accounts (w : Work) : w.becomeOwned.engine.accounts = w.engine.accounts := rfl
@[simp] theorem Work.becomeOwned_engine_directory (w : Work) : w.becomeOwned.engine.directory = w.engine.directory := rfl
@[simp] theorem Work.becomeOwned_engine_plans (w : Work) : w.becomeOwned.engine.plans = w.engine.plans := rfl
@[simp] theorem Work.becomeOwned_engine_agents (w : Work) : w.becomeOwned.engine.agents = w.engine.agents := rfl
@[simp] theorem Work.becomeOwned_engine_poolFree (w : Work) : w.becomeOwned.engine.poolFree = w.engine.poolFree := rfl
@[simp] theorem Work.becomeOwned_engine_expiry (w : Work) : w.becomeOwned.engine.expiry = dueRemove w.record.kit w.engine.expiry := rfl
@[simp] theorem Work.becomeOwned_engine_settlement (w : Work) : w.becomeOwned.engine.settlement = w.engine.settlement := rfl
@[simp] theorem Work.becomeOwned_engine_notices (w : Work) : w.becomeOwned.engine.notices = if w.record.notices = .clear then w.engine.notices ++ [w.record.kit] else w.engine.notices := rfl
@[simp] theorem Work.becomeOwned_slot (w : Work) : w.becomeOwned.slot = w.slot := rfl
@[simp] theorem Work.becomeOwned_plan (w : Work) : w.becomeOwned.plan = w.plan := rfl
@[simp] theorem Work.becomeOwned_record_kit (w : Work) : w.becomeOwned.record.kit = w.record.kit := rfl
@[simp] theorem Work.becomeOwned_record_state (w : Work) : w.becomeOwned.record.state = .owned := rfl
@[simp] theorem Work.becomeOwned_record_reason (w : Work) : w.becomeOwned.record.reason = none := rfl
@[simp] theorem Work.becomeOwned_record_plan (w : Work) : w.becomeOwned.record.plan = w.record.plan := rfl
@[simp] theorem Work.becomeOwned_record_key (w : Work) : w.becomeOwned.record.key = w.record.key := rfl
@[simp] theorem Work.becomeOwned_record_paid (w : Work) : w.becomeOwned.record.paid = w.record.paid := rfl
@[simp] theorem Work.becomeOwned_record_residue (w : Work) : w.becomeOwned.record.residue = w.record.residue := rfl
@[simp] theorem Work.becomeOwned_record_confirmed (w : Work) : w.becomeOwned.record.confirmed = w.plan.price := rfl
@[simp] theorem Work.becomeOwned_record_pending (w : Work) : w.becomeOwned.record.pending = w.record.pending := rfl
@[simp] theorem Work.becomeOwned_record_offer (w : Work) : w.becomeOwned.record.offer = w.record.offer := rfl
@[simp] theorem Work.becomeOwned_record_acked (w : Work) : w.becomeOwned.record.acked = w.record.acked := rfl
@[simp] theorem Work.becomeOwned_record_reminded (w : Work) : w.becomeOwned.record.reminded = w.record.reminded := rfl
@[simp] theorem Work.becomeOwned_record_lastCheckIn (w : Work) : w.becomeOwned.record.lastCheckIn = w.record.lastCheckIn := rfl
@[simp] theorem Work.becomeOwned_record_energy (w : Work) : w.becomeOwned.record.energy = w.record.energy := rfl
@[simp] theorem Work.becomeOwned_record_kitFlags (w : Work) : w.becomeOwned.record.kitFlags = w.record.kitFlags := rfl
@[simp] theorem Work.becomeOwned_record_badChecks (w : Work) : w.becomeOwned.record.badChecks = w.record.badChecks := rfl
@[simp] theorem Work.becomeOwned_record_notices (w : Work) : w.becomeOwned.record.notices = w.record.notices.raise .owned := rfl
@[simp] theorem Work.becomeOwned_record_due (w : Work) : w.becomeOwned.record.due = none := rfl

@[simp] theorem Work.commit_accounts (w : Work) : w.commit.accounts = w.engine.accounts.put w.slot w.record := rfl
@[simp] theorem Work.commit_directory (w : Work) : w.commit.directory = w.engine.directory := rfl
@[simp] theorem Work.commit_plans (w : Work) : w.commit.plans = w.engine.plans := rfl
@[simp] theorem Work.commit_agents (w : Work) : w.commit.agents = w.engine.agents := rfl
@[simp] theorem Work.commit_poolFree (w : Work) : w.commit.poolFree = w.engine.poolFree := rfl
@[simp] theorem Work.commit_expiry (w : Work) : w.commit.expiry = w.engine.expiry := rfl
@[simp] theorem Work.commit_settlement (w : Work) : w.commit.settlement = w.engine.settlement := rfl
@[simp] theorem Work.commit_notices (w : Work) : w.commit.notices = w.engine.notices := rfl

end Sys2Proof.Machine
end

