-- ==== Sys2Proof/Laws/Tables.lean ====
section
/-! SUPPORT. What the operations over numbered tables, the two indexes and the four lines do, said once: what is read
after a write or a removal, and that each keeps its order. -/

namespace Sys2Proof.Machine

/-! ## Numbered tables -/

variable {α : Type}

theorem Table.get_put_same (k : Nat) (v : α) (t : Table α) : Table.get k (Table.put k v t) = some v := by
  induction t with
  | nil => simp [Table.put, Table.get]
  | cons e rest ih =>
    obtain ⟨k', v'⟩ := e
    unfold Table.put
    split
    · simp [Table.get]
    · split
      · simp [Table.get]
      · simp_all [Table.get]

theorem Table.get_put_other {k k' : Nat} (h : k' ≠ k) (v : α) (t : Table α) :
    Table.get k' (Table.put k v t) = Table.get k' t := by
  induction t with
  | nil => simp [Table.put, Table.get, Ne.symm h]
  | cons e rest ih =>
    obtain ⟨j, w⟩ := e
    unfold Table.put
    split
    · rename_i hj
      subst hj
      simp [Table.get, Ne.symm h]
    · split
      · simp [Table.get, Ne.symm h]
      · simp only [Table.get]
        split <;> simp_all

theorem Table.get_put (k k' : Nat) (v : α) (t : Table α) :
    Table.get k' (Table.put k v t) = if k' = k then some v else Table.get k' t := by
  split
  · rename_i h
    subst h
    exact Table.get_put_same _ v t
  · rename_i h
    exact Table.get_put_other h v t

theorem Table.get_erase (k k' : Nat) (t : Table α) :
    Table.get k' (Table.erase k t) = if k' = k then none else Table.get k' t := by
  induction t with
  | nil => simp [Table.erase, Table.get]
  | cons e rest ih =>
    obtain ⟨j, w⟩ := e
    simp only [Table.erase, List.filter_cons] at ih ⊢
    by_cases hj : j = k
    · subst hj
      simp only [beq_self_eq_true, Bool.not_true, Bool.false_eq_true, if_false]
      rw [ih]
      split
      · rfl
      · rename_i h
        simp [Table.get, Ne.symm h]
    · have hb : (!(j == k)) = true := by simp [hj]
      simp only [hb, if_true, Table.get]
      rw [ih]
      by_cases h : k' = k
      · subst h
        simp [hj]
      · simp [h]

/-- What a table holds under a number is one of its entries. -/
theorem Table.mem_of_get {k : Nat} {v : α} {t : Table α} (h : Table.get k t = some v) : (k, v) ∈ t := by
  induction t with
  | nil => simp [Table.get] at h
  | cons e rest ih =>
    obtain ⟨j, w⟩ := e
    simp only [Table.get] at h
    split at h
    · simp_all
    · exact List.mem_cons_of_mem _ (ih h)

/-- In canonical form an entry is what the table holds under its number. -/
theorem Table.get_of_mem {e : Nat × α} {t : Table α} (hw : Table.wf t) (h : e ∈ t) : Table.get e.1 t = some e.2 := by
  induction t with
  | nil => simp at h
  | cons d rest ih =>
    obtain ⟨j, w⟩ := d
    have hr := List.pairwise_cons.mp hw
    rcases List.mem_cons.mp h with rfl | hm
    · simp [Table.get]
    · have : j < e.1 := hr.1 e hm
      simp only [Table.get, Nat.ne_of_lt this, if_false]
      exact ih hr.2 hm

theorem Table.mem_put {k : Nat} {v : α} {t : Table α} {e : Nat × α} (h : e ∈ Table.put k v t) :
    e = (k, v) ∨ e ∈ t := by
  induction t with
  | nil => simp_all [Table.put]
  | cons d rest ih =>
    obtain ⟨j, w⟩ := d
    unfold Table.put at h
    split at h
    · simp_all; tauto
    · split at h
      · simp_all
      · simp only [List.mem_cons] at h ⊢
        rcases h with rfl | h
        · exact Or.inr (Or.inl rfl)
        · rcases ih h with rfl | h
          · exact Or.inl rfl
          · exact Or.inr (Or.inr h)

/-- A write keeps the canonical form. -/
theorem Table.wf_put (k : Nat) (v : α) {t : Table α} (hw : Table.wf t) : Table.wf (Table.put k v t) := by
  induction t with
  | nil => simp [Table.put, Table.wf]
  | cons d rest ih =>
    obtain ⟨j, w⟩ := d
    have hr := List.pairwise_cons.mp hw
    unfold Table.put
    split
    · rename_i hj
      subst hj
      exact List.pairwise_cons.mpr ⟨hr.1, hr.2⟩
    · rename_i hne
      split
      · rename_i hlt
        refine List.pairwise_cons.mpr ⟨?_, hw⟩
        intro e he
        rcases List.mem_cons.mp he with rfl | he
        · exact hlt
        · exact Nat.lt_trans hlt (hr.1 e he)
      · rename_i hge
        refine List.pairwise_cons.mpr ⟨?_, ih hr.2⟩
        intro e he
        rcases Table.mem_put he with rfl | he
        · exact Nat.lt_of_le_of_ne (Nat.le_of_not_lt hge) hne
        · exact hr.1 e he

/-- A removal keeps the canonical form. -/
theorem Table.wf_erase (k : Nat) {t : Table α} (hw : Table.wf t) : Table.wf (Table.erase k t) :=
  hw.sublist List.filter_sublist

/-- Entries of a table in canonical form have numbers not below its first. -/
theorem Table.lowestFree_of_lt {n : Nat} {t : Table α} (h : ∀ e ∈ t, n < e.1) : Table.lowestFree n t = n := by
  induction t with
  | nil => rfl
  | cons d rest ih =>
    obtain ⟨j, w⟩ := d
    have hj : n < j := h (j, w) (List.mem_cons_self)
    simp only [Table.lowestFree, (Nat.ne_of_lt hj).symm, if_false]
    exact ih (fun e he => h e (List.mem_cons_of_mem _ he))

/-- The number `lowestFree` gives is from `n` on, is not used, and every number between is used (R14). -/
theorem Table.lowestFree_spec (n : Nat) {t : Table α} (hw : Table.wf t) (hn : ∀ e ∈ t, n ≤ e.1) :
    n ≤ Table.lowestFree n t ∧ Table.get (Table.lowestFree n t) t = none ∧
      ∀ j, n ≤ j → j < Table.lowestFree n t → (Table.get j t).isSome = true := by
  induction t generalizing n with
  | nil => exact ⟨Nat.le_refl _, rfl, fun j h1 h2 => absurd h1 (by simp [Table.lowestFree] at h2; omega)⟩
  | cons d rest ih =>
    obtain ⟨j, w⟩ := d
    have hr := List.pairwise_cons.mp hw
    have hj : n ≤ j := hn (j, w) (List.mem_cons_self)
    simp only [Table.lowestFree]
    split
    · rename_i hjn
      subst hjn
      obtain ⟨h1, h2, h3⟩ := ih (j + 1) hr.2 (fun e he => hr.1 e he)
      refine ⟨by omega, ?_, ?_⟩
      · simp only [Table.get]
        rw [if_neg (by omega)]
        exact h2
      · intro i hi1 hi2
        simp only [Table.get]
        split
        · rfl
        · exact h3 i (by omega) hi2
    · rename_i hjn
      have hlt : n < j := by omega
      rw [Table.lowestFree_of_lt (fun e he => Nat.lt_trans hlt (hr.1 e he))]
      refine ⟨Nat.le_refl _, ?_, fun i h1 h2 => by omega⟩
      cases hg : Table.get n ((j, w) :: rest) with
      | none => rfl
      | some v =>
        have hm := Table.mem_of_get hg
        rcases List.mem_cons.mp hm with h | h
        · simp at h; omega
        · have := hr.1 _ h; simp at this; omega

/-! ## The two indexes -/

theorem mem_dueInsert {d e : DueItem} {l : List DueItem} : e ∈ dueInsert d l ↔ e = d ∨ e ∈ l := by
  induction l with
  | nil => simp [dueInsert]
  | cons a rest ih =>
    unfold dueInsert
    split
    · simp
    · simp [ih]; tauto

theorem mem_dueRemove {kit : Nat} {e : DueItem} {l : List DueItem} : e ∈ dueRemove kit l ↔ e ∈ l ∧ e.kit ≠ kit := by
  simp [dueRemove]

/-- Inserting a kit's entry does not change what is left when the kit's entries are removed. -/
theorem dueRemove_dueInsert (d : DueItem) (l : List DueItem) :
    dueRemove d.kit (dueInsert d l) = dueRemove d.kit l := by
  induction l with
  | nil => simp [dueInsert, dueRemove]
  | cons a rest ih =>
    unfold dueInsert
    split
    · simp [dueRemove]
    · simp only [dueRemove, List.filter_cons] at ih ⊢
      rw [ih]

theorem dueRemove_dueRemove (kit : Nat) (l : List DueItem) : dueRemove kit (dueRemove kit l) = dueRemove kit l := by
  simp [dueRemove]

theorem mem_settleInsert {d e : SettleItem} {l : List SettleItem} : e ∈ settleInsert d l ↔ e = d ∨ e ∈ l := by
  induction l with
  | nil => simp [settleInsert]
  | cons a rest ih =>
    unfold settleInsert
    split
    · simp
    · simp [ih]; tauto

theorem mem_settleRemove {kit reference : Nat} {e : SettleItem} {l : List SettleItem} :
    e ∈ settleRemove kit reference l ↔ e ∈ l ∧ ¬(e.kit = kit ∧ e.reference = reference) := by
  simp only [settleRemove, List.mem_filter, Bool.not_eq_true', Bool.and_eq_false_iff, beq_eq_false_iff_ne]
  tauto

/-! ## Pending entries -/

theorem mem_removeEntry {reference : Nat} {e : Entry} {l : List Entry} :
    e ∈ removeEntry reference l ↔ e ∈ l ∧ e.reference ≠ reference := by
  simp [removeEntry]

theorem mem_insertByDeadline {d e : Entry} {l : List Entry} : e ∈ insertByDeadline d l ↔ e = d ∨ e ∈ l := by
  induction l with
  | nil => simp [insertByDeadline]
  | cons a rest ih =>
    unfold insertByDeadline
    split
    · simp
    · simp [ih]; tauto

theorem mem_foldl_insertByDeadline {e : Entry} {l acc : List Entry} :
    e ∈ l.foldl (fun sorted x => insertByDeadline x sorted) acc ↔ e ∈ l ∨ e ∈ acc := by
  induction l generalizing acc with
  | nil => simp
  | cons a rest ih => simp [ih, mem_insertByDeadline]; tauto

/-- The entries settled at `t` are those whose deadline is at or before `t` (R35). -/
theorem mem_dueEntries {t : Nat} {e : Entry} {l : List Entry} : e ∈ dueEntries t l ↔ e ∈ l ∧ e.deadline ≤ t := by
  simp [dueEntries, mem_foldl_insertByDeadline]

/-! ## Lines -/

@[simp] theorem Lines.get_put_same (ls : Lines) (n : LineNo) (l : Line) : (ls.put n l).get n = l := by
  cases n <;> rfl

theorem Lines.get_put_other (ls : Lines) {n m : LineNo} (h : m ≠ n) (l : Line) : (ls.put n l).get m = ls.get m := by
  cases n <;> cases m <;> first | rfl | exact absurd rfl h

@[simp] theorem Lines.put_put (ls : Lines) (n : LineNo) (l l' : Line) : (ls.put n l).put n l' = ls.put n l' := by
  cases n <;> rfl

@[simp] theorem Lines.put_get (ls : Lines) (n : LineNo) : ls.put n (ls.get n) = ls := by
  cases n <;> rfl

@[simp] theorem Lines.get_map (ls : Lines) (f : Line → Line) (n : LineNo) : (ls.map f).get n = f (ls.get n) := by
  cases n <;> rfl

end Sys2Proof.Machine
end

