-- ==== Sys2Proof/Laws/Arbiter.lean ====
section
/-! SUPPORT. What a grant implies, and what answering, holding and completing a request leave. -/

namespace Sys2Proof.Machine

/-- When a grant can be made (R27, R33). -/
theorem State.granting_iff {s : State} :
    s.granting = true ↔ s.supply.state = .running ∧ s.supply.resetWaiting = false ∧ s.hold = none := by
  simp [State.granting, and_assoc]

/-- When the engine holds a request at a fall of main supply (R186). -/
theorem State.holdsAt_iff {s : State} {fall : SupplyFall} :
    s.holdsAt fall = true ↔ s.hold.isSome = true ∨ (fall.taken = true ∧ s.mayHaveGranted.isSome = true) := by
  simp [State.holdsAt]

/-- With no restart waiting the engine can have taken a request of the requester granted only (R29). -/
theorem State.mayHaveGranted_eq {s : State} (h : s.supply.resetWaiting = false) : s.mayHaveGranted = s.grant := by
  unfold State.mayHaveGranted; rw [← h]

/-- The seven requesters in the circular order of R29, from the port on. -/
abbrev requesters : List Requester :=
  [.port, .line .line0, .line .line1, .line .line2, .line .line3, .expiryPass, .settlementPass]

/-- A round of the circular order from a requester is the list from its place on, and then from the start (R29). -/
theorem Requester.circle_eq {i : Nat} {r : Requester} (h : requesters[i]? = some r) :
    Requester.circle 7 r = requesters.drop i ++ requesters.take i := by
  match i with
  | 0 | 1 | 2 | 3 | 4 | 5 | 6 =>
    simp only [List.getElem?_cons_zero, List.getElem?_cons_succ, Option.some.injEq] at h
    subst h
    rfl
  | n + 7 => simp at h

/-- When a line is ready (R28). -/
theorem State.ready_line {s : State} {n : LineNo} :
    s.ready (.line n) = true ↔ (s.lines.get n).inbound ≠ [] ∧ (s.lines.get n).outbound.length < 4 := by
  simp only [State.ready, Bool.and_eq_true, decide_eq_true_eq, Bool.not_eq_true', List.isEmpty_eq_false_iff]
  exact Iff.rfl

/-- A grant is made only in RUNNING, with no restart waiting and the engine idle, to a ready requester (R27, R33). -/
theorem State.grant_spec {s : State} {r : Requester} (h : s.grant = some r) :
    s.supply.state = .running ∧ s.supply.resetWaiting = false ∧ s.hold = none ∧ s.ready r = true := by
  unfold State.grant at h
  split at h
  · rename_i hg
    have hr := List.find?_some h
    simp [State.granting] at hg
    exact ⟨hg.1.1, hg.1.2, hg.2, hr⟩
  · exact absurd h (by simp)

/-- A request is given up by the port when the grant goes to the port and the buffer holds a frame of it (R31). -/
theorem State.grantedRequest_spec {s : State} {q : Request} (h : s.grantedRequest = some q) :
    s.grant = some .port ∧ ∃ f, s.port.request = some f ∧ f.request = some q := by
  simp only [State.grantedRequest, State.grantedFrame] at h
  split at h
  · rename_i hg
    exact ⟨hg, by simpa [Option.bind_eq_some_iff] using h⟩
  · simp at h

theorem State.grantedFrame_spec {s : State} {f : Frame} (h : s.grantedFrame = some f) :
    s.grant = some .port ∧ s.port.request = some f := by
  simp only [State.grantedFrame] at h
  split at h
  · exact ⟨by assumption, h⟩
  · simp at h

/-- A message is given up by a line when the grant goes to the line (R31). -/
theorem State.grantedMessage_spec {s : State} {n : LineNo} {m : Message} (h : s.grantedMessage = some (n, m)) :
    s.grant = some (.line n) ∧ (s.lines.get n).inbound.head? = some m := by
  unfold State.grantedMessage at h
  split at h
  · rename_i k hg
    simp at h
    obtain ⟨h, rfl⟩ := h
    exact ⟨hg, by simpa using h⟩
  · simp at h

/-- A granted port takes its response at once. -/
theorem State.answer_of_grant {s : State} (h : s.grant = some .port) (e : Engine) (r : Response) :
    s.answer (some (e, r)) = .next (s.responded e r) := by
  obtain ⟨h1, h2, -, -⟩ := State.grant_spec h
  simp [State.answer, State.deliver, State.takePort, State.responded, State.statuses, State.status, h1, h2, Requester.next]

theorem State.answer_granted {s : State} {q : Request} (h : s.grantedRequest = some q) (e : Engine) (r : Response) :
    s.answer (some (e, r)) = .next (s.responded e r) :=
  State.answer_of_grant (State.grantedRequest_spec h).1 e r

theorem State.holdPort_eq (s : State) (h : Hold) : s.holdPort h = s.heldFor h := rfl

/-- A held request completes into the port when the port can take its response. -/
theorem State.complete_of_takes {s : State} (h : s.takesResponse = true) (r : Response) :
    s.complete r = s.released r := by
  simp [State.takesResponse] at h
  simp [State.complete, State.deliver, State.released, State.statuses, State.status, h]

/-- Otherwise the response is lost (R33, R181). -/
theorem State.complete_of_not_takes {s : State} (h : s.takesResponse = false) (r : Response) :
    s.complete r = { s with hold := none } := by
  have : ¬(s.supply.state = .running ∧ s.supply.resetWaiting = false) := by
    intro hc
    simp [State.takesResponse, hc.1, hc.2] at h
  simp [State.complete, State.deliver, this]

theorem State.handle_reply (s : State) (n : LineNo) (e : Engine) (d : Delivery) :
    s.handle n (some (e, some d)) = .next (s.sending n e d) := by
  cases n <;> rfl

theorem State.handle_silent (s : State) (n : LineNo) (e : Engine) :
    s.handle n (some (e, none)) = .next (s.silenced n e) := by
  cases n <;> rfl

end Sys2Proof.Machine
end

