-- ==== Sys2Proof/Laws/Calendar.lean ====
section
/-! SUPPORT. Laws of the calendar: what the next minute is, and that its own events and commands keep it sound (chapter 8). -/

namespace Sys2Proof.Machine

/-- A valid date and time, part by part. -/
theorem DateTime.valid_iff {d : DateTime} : d.valid = true ↔
    2000 ≤ d.year ∧ d.year ≤ 2199 ∧ 1 ≤ d.month ∧ d.month ≤ 12 ∧ 1 ≤ d.day ∧ d.day ≤ monthLength d.year d.month ∧
      d.hour ≤ 23 ∧ d.minute ≤ 59 ∧ d.second ≤ 59 := by
  simp [DateTime.valid, and_assoc]

/-- The last minute of the range, part by part. -/
theorem DateTime.lastMinute_iff {d : DateTime} : d.lastMinute = true ↔
    d.year = 2199 ∧ d.month = 12 ∧ d.day = 31 ∧ d.hour = 23 ∧ d.minute = 59 := by
  simp [DateTime.lastMinute, and_assoc]

/-- A month that exists has at least 28 days. -/
theorem monthLength_ge {year month : Nat} (h1 : 1 ≤ month) (h2 : month ≤ 12) : 28 ≤ monthLength year month := by
  interval_cases month <;> simp [monthLength]
  split <;> omega

/-- The days of the months before month `m + 1`, with the next month, are the days before month `m + 2`. -/
theorem daysToMonth_succ (year m : Nat) : daysToMonth year (m + 1) = daysToMonth year m + monthLength year (m + 1) := rfl

/-- The days of a year, by its months (R146). -/
theorem daysToMonth_twelve (year : Nat) : daysToMonth year 12 = 365 + (isLeap year).toNat := by
  have h2 : monthLength year 2 = 28 + (isLeap year).toNat := by simp only [monthLength]; cases isLeap year <;> rfl
  have e : daysToMonth year 12 = 31 + monthLength year 2 + 306 := rfl
  rw [e, h2]; omega

/-- A leap year, as arithmetic (R146), its year counted from 2000. -/
theorem isLeap_iff (y : Nat) : isLeap (2000 + y) = true ↔ y % 4 = 0 ∧ (y % 100 ≠ 0 ∨ y % 400 = 0) := by
  have h4 : (2000 + y) % 4 = y % 4 := Nat.mul_add_mod 4 500 y
  have h100 : (2000 + y) % 100 = y % 100 := Nat.mul_add_mod 100 20 y
  have h400 : (2000 + y) % 400 = y % 400 := Nat.mul_add_mod 400 5 y
  simp [isLeap, h4, h100, h400]

/-- How the count of the days to a year grows with the year. -/
theorem daysToYear_arithmetic (y l : Nat)
    (h : (l = 1 ∧ y % 4 = 0 ∧ (y % 100 ≠ 0 ∨ y % 400 = 0)) ∨
      (l = 0 ∧ ¬(y % 4 = 0 ∧ (y % 100 ≠ 0 ∨ y % 400 = 0)))) :
    365 * (y + 1) + (y + 1 + 3) / 4 - (y + 1 + 99) / 100 + (y + 1 + 399) / 400 =
      365 * y + (y + 3) / 4 - (y + 99) / 100 + (y + 399) / 400 + (365 + l) := by
  have h4 : (y + 1 + 3) / 4 = (y + 3) / 4 + if y % 4 = 0 then 1 else 0 := by split <;> omega
  have h100 : (y + 1 + 99) / 100 = (y + 99) / 100 + if y % 100 = 0 then 1 else 0 := by split <;> omega
  have h400 : (y + 1 + 399) / 400 = (y + 399) / 400 + if y % 400 = 0 then 1 else 0 := by split <;> omega
  rw [h4, h100, h400]
  split_ifs <;> omega

/-- A year is as long as its twelve months (R146). -/
theorem daysToYear_succ {year : Nat} (h : 2000 ≤ year) :
    daysToYear (year + 1) = daysToYear year + daysToMonth year 12 := by
  obtain ⟨y, rfl⟩ := Nat.exists_eq_add_of_le h
  have e0 : 2000 + y - 2000 = y := Nat.add_sub_cancel_left ..
  have e1 : 2000 + y + 1 - 2000 = y + 1 := by rw [Nat.add_assoc]; exact Nat.add_sub_cancel_left ..
  rw [daysToMonth_twelve]
  unfold daysToYear
  rw [e0, e1]
  apply daysToYear_arithmetic
  rw [← isLeap_iff y]
  cases isLeap (2000 + y)
  · exact .inr ⟨rfl, Bool.false_ne_true⟩
  · exact .inl ⟨rfl, rfl⟩

/-- The next day is one day later (R147). -/
theorem DateTime.days_nextDay {d : DateTime} (hy : 2000 ≤ d.year) (h1 : 1 ≤ d.month) (h2 : d.month ≤ 12)
    (hd1 : 1 ≤ d.day) (hd : d.day ≤ monthLength d.year d.month) : d.nextDay.days = d.days + 1 := by
  obtain ⟨year, month, day, hour, minute, second⟩ := d
  simp only [DateTime.nextDay] at *
  obtain ⟨m, rfl⟩ : ∃ m, month = m + 1 := ⟨month - 1, by omega⟩
  split
  · simp only [DateTime.days]; omega
  · split
    · simp only [DateTime.days, Nat.add_sub_cancel, daysToMonth_succ]; omega
    · have hm : m = 11 := by omega
      subst hm
      simp only [DateTime.days, daysToYear_succ hy, Nat.add_sub_cancel, Nat.sub_self, daysToMonth]
      omega

/-- The next day exists, but for the one after 2199-12-31. -/
theorem DateTime.valid_nextDay {d : DateTime} (h : d.valid = true)
    (hl : ¬(d.year = 2199 ∧ d.month = 12 ∧ d.day = 31)) : d.nextDay.valid = true := by
  obtain ⟨year, month, day, hour, minute, second⟩ := d
  obtain ⟨hy, hy', hm, hm', hd, hd', hh, hmi, hs⟩ := DateTime.valid_iff.1 h
  simp only [DateTime.nextDay] at *
  split
  · exact DateTime.valid_iff.2 ⟨hy, hy', hm, hm', by simp, by simpa using by omega, hh, hmi, hs⟩
  · split
    · have := @monthLength_ge year (month + 1) (by omega) (by omega)
      exact DateTime.valid_iff.2 ⟨hy, hy', by simp, by simpa using by omega, by simp, by simpa using by omega, hh, hmi, hs⟩
    · have h12 : month = 12 := by omega
      subst h12
      have : monthLength year 12 = 31 := rfl
      have : monthLength (year + 1) 1 = 31 := rfl
      exact DateTime.valid_iff.2
        ⟨by simpa using by omega, by simpa using by omega, by simp, by simp, by simp, by simpa using by omega, hh, hmi, hs⟩

/-- The next minute begins with second 0. -/
@[simp] theorem DateTime.nextMinute_second (d : DateTime) : d.nextMinute.second = 0 := by
  simp only [DateTime.nextMinute, DateTime.nextDay]
  split_ifs <;> rfl

/-- The next minute is one district minute later (R147). -/
theorem DateTime.districtMinute_nextMinute {d : DateTime} (h : d.valid = true) :
    d.nextMinute.districtMinute = d.districtMinute + 1 := by
  obtain ⟨hy, -, hm, hm', hd, hd', hh, hmi, -⟩ := DateTime.valid_iff.1 h
  simp only [DateTime.nextMinute]
  split
  · simp only [DateTime.districtMinute, DateTime.days, Config.dayMinutes]; omega
  · split
    · simp only [DateTime.districtMinute, DateTime.days, Config.dayMinutes]; omega
    · have e : ∀ x : DateTime, x.nextDay.hour = x.hour ∧ x.nextDay.minute = x.minute := by
        intro x; simp only [DateTime.nextDay]; split_ifs <;> exact ⟨rfl, rfl⟩
      have n := @DateTime.days_nextDay { d with minute := 0, hour := 0, second := 0 } hy hm hm' hd hd'
      simp only [DateTime.districtMinute, (e _).1, (e _).2, n, Config.dayMinutes]
      simp only [DateTime.days]
      omega

/-- The next minute exists, but after the last of the range (R148). -/
theorem DateTime.valid_nextMinute {d : DateTime} (h : d.valid = true) (hl : d.lastMinute = false) :
    d.nextMinute.valid = true := by
  obtain ⟨hy, hy', hm, hm', hd, hd', hh, hmi, -⟩ := DateTime.valid_iff.1 h
  have hl' : ¬(d.year = 2199 ∧ d.month = 12 ∧ d.day = 31 ∧ d.hour = 23 ∧ d.minute = 59) := by
    rw [← DateTime.lastMinute_iff, hl]; simp
  simp only [DateTime.nextMinute]
  split
  · exact DateTime.valid_iff.2 ⟨hy, hy', hm, hm', hd, hd', hh, by simpa using by omega, by simp⟩
  · split
    · exact DateTime.valid_iff.2 ⟨hy, hy', hm, hm', hd, hd', by simpa using by omega, by simp, by simp⟩
    · refine DateTime.valid_nextDay (DateTime.valid_iff.2 ⟨hy, hy', hm, hm', hd, hd', by simp, by simp, by simp⟩) ?_
      simp only
      omega

/-- A date stays real with another second. -/
theorem DateTime.valid_second {d : DateTime} (h : d.valid = true) {second : Nat} (hs : second ≤ 59) :
    ({ d with second := second } : DateTime).valid = true := by
  obtain ⟨a, b, c, e, f, g, i, j, -⟩ := DateTime.valid_iff.1 h
  exact DateTime.valid_iff.2 ⟨a, b, c, e, f, g, i, j, hs⟩

/-! ## Every event of the calendar keeps it sound (R145) -/

theorem Calendar.wf_endHold {c : Calendar} (h : c.wf) : c.endHold.wf := by
  obtain ⟨h1, h2, h3, h4, -, -⟩ := h
  exact ⟨h1, h2, h3, h4, by simp [Calendar.endHold], by simp [Calendar.endHold]⟩

theorem Calendar.wf_load {c : Calendar} (h : c.wf) {d : DateTime} (hd : d.valid = true) : (c.load d).wf := by
  obtain ⟨-, -, -, h4, -, -⟩ := h
  exact ⟨hd, rfl, by simp [Calendar.load, Config.secondSteps], h4, by simp [Calendar.load], by simp [Calendar.load]⟩

theorem Calendar.wf_regulation {c : Calendar} (h : c.wf) {v : Int} (hv : v.natAbs ≤ Config.regulationMax) :
    ({ c with regulation := v } : Calendar).wf := by
  obtain ⟨h1, h2, h3, -, h5, h6⟩ := h
  exact ⟨h1, h2, h3, hv, h5, h6⟩

theorem Calendar.wf_advanceMinute {c : Calendar} (h : c.wf) (hl : c.time.lastMinute = false) : c.advanceMinute.wf := by
  obtain ⟨h1, h2, h3, h4, h5, h6⟩ := h
  exact ⟨DateTime.valid_nextMinute h1 hl, by
    simp only [Calendar.advanceMinute]; rw [DateTime.districtMinute_nextMinute h1, h2], h3, h4, h5, h6⟩

theorem Calendar.wf_align {c : Calendar} (h : c.wf) : c.align.wf := by
  obtain ⟨h1, h2, -, h4, -, -⟩ := h
  have hc : ({ c with time := { c.time with second := 0 }, sub := 0, hold := 0 } : Calendar).wf :=
    ⟨DateTime.valid_second h1 (by omega), h2, by simp [Config.secondSteps], h4, by simp, by simp⟩
  simp only [Calendar.align]
  split
  · next ha =>
    simp only [Calendar.alignAdvances, Bool.and_eq_true, Bool.not_eq_true'] at ha
    exact Calendar.wf_advanceMinute hc ha.2
  · exact hc

/-- Regulation at a boundary whose count has just wrapped and whose hold is over. -/
theorem Calendar.wf_regulate {c : Calendar} (h : c.wf) (h0 : c.sub = 0) (hh : c.hold = 0) : c.regulate.wf := by
  obtain ⟨h1, h2, h3, h4, h5, h6⟩ := h
  simp only [Config.regulationMax] at h4
  simp only [Calendar.regulate]
  split_ifs
  · exact ⟨h1, h2, by simp only [Config.secondSteps]; omega, by simpa [Config.regulationMax] using h4, by simp [hh],
      by simp [hh]⟩
  · exact ⟨h1, h2, h3, by simpa [Config.regulationMax] using h4, by simpa [Config.regulationMax] using h4, by simp [h0]⟩
  · exact ⟨h1, h2, h3, h4, h5, h6⟩
  · exact ⟨h1, h2, h3, h4, h5, h6⟩

theorem Calendar.wf_tick {c : Calendar} (h : c.wf) : c.tick.wf := by
  obtain ⟨h1, h2, h3, h4, h5, h6⟩ := h
  have hs := (DateTime.valid_iff.1 h1).2.2.2.2.2.2.2.2
  simp only [Calendar.tick]
  split
  · exact ⟨h1, h2, h3, h4, by simp only; omega, fun g => h6 (by simp only at g; omega)⟩
  · next hh =>
    split
    · next hl => exact ⟨h1, h2, hl, h4, h5, fun g => absurd g hh⟩
    · have h0 : ({ c with sub := 0 } : Calendar).wf := ⟨h1, h2, by simp [Config.secondSteps], h4, h5, fun _ => rfl⟩
      simp only [Calendar.rollover]
      split
      · exact ⟨DateTime.valid_second h1 (by omega), h2, by simp [Config.secondSteps], h4, h5, fun _ => rfl⟩
      · split
        · exact h0
        · next hn =>
          refine Calendar.wf_regulate (Calendar.wf_advanceMinute h0 ?_) rfl (by simp only [Calendar.advanceMinute]; omega)
          simpa using hn

end Sys2Proof.Machine
end

