-- ==== Sys2Proof/Laws/Current.lean ====
section
/-! SUPPORT. What bringing a record current, settling its entries, paying it and raising notices on it can change. -/

namespace Sys2Proof.Machine

/-! ## What is never touched -/

theorem Work.Same.refl (w : Work) : w.Same w := ⟨rfl, rfl, rfl, rfl, rfl, rfl, rfl, rfl, rfl, rfl, rfl, rfl, rfl, rfl⟩

theorem Work.Same.trans {a b c : Work} (h : a.Same b) (g : b.Same c) : a.Same c :=
  ⟨g.1.trans h.1, g.2.trans h.2, g.3.trans h.3, g.4.trans h.4, g.5.trans h.5, g.6.trans h.6, g.7.trans h.7,
    g.8.trans h.8, g.9.trans h.9, g.10.trans h.10, g.11.trans h.11, g.12.trans h.12, g.13.trans h.13, g.14.trans h.14⟩

theorem Work.same_raise (w : Work) (n : Notice) : w.Same (w.raise n) :=
  ⟨rfl, rfl, rfl, rfl, rfl, rfl, rfl, rfl, rfl, rfl, rfl, rfl, rfl, rfl⟩

theorem Work.same_raiseIf (w : Work) (c : Bool) (n : Notice) : w.Same (w.raiseIf c n) := by
  unfold Work.raiseIf
  split
  · exact w.same_raise n
  · exact Work.Same.refl w

theorem Work.same_rekey (w : Work) : w.Same w.rekey :=
  ⟨rfl, rfl, rfl, rfl, rfl, rfl, rfl, rfl, rfl, rfl, rfl, rfl, rfl, rfl⟩

theorem Work.same_unkey (w : Work) : w.Same w.unkey :=
  ⟨rfl, rfl, rfl, rfl, rfl, rfl, rfl, rfl, rfl, rfl, rfl, rfl, rfl, rfl⟩

theorem Work.same_recompute (w : Work) (t : Nat) : w.Same (w.recompute t) :=
  ⟨rfl, rfl, rfl, rfl, rfl, rfl, rfl, rfl, rfl, rfl, rfl, rfl, rfl, rfl⟩

theorem Work.same_becomeOwned (w : Work) : w.Same w.becomeOwned :=
  ⟨rfl, rfl, rfl, rfl, rfl, rfl, rfl, rfl, rfl, rfl, rfl, rfl, rfl, rfl⟩

theorem Work.same_remind (w : Work) (t : Nat) : w.Same (w.remind t) := by
  unfold Work.remind
  split
  · exact ⟨rfl, rfl, rfl, rfl, rfl, rfl, rfl, rfl, rfl, rfl, rfl, rfl, rfl, rfl⟩
  · exact Work.Same.refl w

theorem Work.same_creditNotices (w : Work) (b : RecordState) (t : Nat) : w.Same (w.creditNotices b t) :=
  ((w.same_raiseIf _ _).trans (Work.same_raiseIf _ _ _)).trans (Work.same_remind _ t)

/-- An agent's slot is changed by a settlement, nothing else of the engine. -/
theorem Engine.changeAgent_eq (e : Engine) (n : Nat) (f : Agent → Agent) :
    e.changeAgent n f = { e with agents := (e.changeAgent n f).agents } := by
  unfold Engine.changeAgent
  split <;> rfl

theorem Engine.changeAgent_accounts (e : Engine) (n : Nat) (f : Agent → Agent) :
    (e.changeAgent n f).accounts = e.accounts := by
  rw [e.changeAgent_eq n f]

theorem Engine.changeAgent_directory (e : Engine) (n : Nat) (f : Agent → Agent) :
    (e.changeAgent n f).directory = e.directory := by
  rw [e.changeAgent_eq n f]

theorem Engine.changeAgent_plans (e : Engine) (n : Nat) (f : Agent → Agent) : (e.changeAgent n f).plans = e.plans := by
  rw [e.changeAgent_eq n f]

/-- The agent's slot after a change: `f` of what it held; the other slots as they were. -/
theorem Engine.changeAgent_get (e : Engine) (n m : Nat) (f : Agent → Agent) :
    (e.changeAgent n f).agents.get m = if m = n then (e.agents.get n).map f else e.agents.get m := by
  unfold Engine.changeAgent
  split
  · rename_i a ha
    simp only [Table.get_put]
    split <;> simp_all
  · rename_i ha
    split <;> simp_all

theorem Work.same_dropEntry (w : Work) (en : Entry) : w.Same (w.dropEntry en) :=
  ⟨rfl, rfl, rfl, rfl, rfl, rfl, rfl, rfl, rfl, rfl, rfl, rfl, rfl, rfl⟩

theorem Work.same_changeAgent (w : Work) (n : Nat) (f : Agent → Agent) :
    w.Same { w with engine := w.engine.changeAgent n f } :=
  ⟨rfl, rfl, w.engine.changeAgent_accounts n f, w.engine.changeAgent_directory n f, w.engine.changeAgent_plans n f,
    rfl, rfl, rfl, rfl, rfl, rfl, rfl, rfl, rfl⟩

theorem Work.same_confirmEntry (w : Work) (en : Entry) : w.Same (w.confirmEntry en).1 := by
  have h := (w.same_dropEntry en).trans (Work.same_changeAgent (w.dropEntry en) en.agent (fun a => a.settle en.amount))
  unfold Work.confirmEntry
  dsimp only
  split
  · exact h
  · split
    · exact h.trans ⟨rfl, rfl, rfl, rfl, rfl, rfl, rfl, rfl, rfl, rfl, rfl, rfl, rfl, rfl⟩
    · split
      · exact h.trans ⟨rfl, rfl, rfl, rfl, rfl, rfl, rfl, rfl, rfl, rfl, rfl, rfl, rfl, rfl⟩
      · exact h.trans ⟨rfl, rfl, rfl, rfl, rfl, rfl, rfl, rfl, rfl, rfl, rfl, rfl, rfl, rfl⟩

theorem Work.same_reverseEntry (w : Work) (en : Entry) : w.Same (w.reverseEntry en) := by
  have h := (w.same_dropEntry en).trans (Work.same_changeAgent (w.dropEntry en) en.agent (fun a => a.unsettle en.amount))
  unfold Work.reverseEntry
  dsimp only
  split
  · exact h
  · refine Work.Same.trans ?_ (Work.same_raiseIf _ _ _)
    exact h.trans ⟨rfl, rfl, rfl, rfl, rfl, rfl, rfl, rfl, rfl, rfl, rfl, rfl, rfl, rfl⟩

theorem Work.same_timedSettle (w : Work) (en : Entry) : w.Same (w.timedSettle en) := by
  unfold Work.timedSettle
  split
  · exact (w.same_confirmEntry en).trans (Work.same_raise _ _)
  · exact (w.same_reverseEntry en).trans (Work.same_raise _ _)

theorem Work.same_foldl {l : List Entry} {f : Work → Entry → Work} (hf : ∀ (w : Work) en, w.Same (f w en)) (w : Work) :
    w.Same (l.foldl f w) := by
  induction l generalizing w with
  | nil => exact Work.Same.refl w
  | cons en rest ih => exact (hf w en).trans (ih _)

theorem Work.same_settleDue (w : Work) (t : Nat) : w.Same (w.settleDue t) := Work.same_foldl Work.same_timedSettle w

/-- Bringing current touches neither the account table, the directory, the plans nor the grant exchange (R35 to R37). -/
theorem Work.same_current (w : Work) (t : Nat) : w.Same (w.current t) :=
  (((w.same_settleDue t).trans (Work.same_recompute _ t)).trans (Work.same_creditNotices _ _ t)).trans
    (Work.same_rekey _)

theorem Work.same_credit (w : Work) (m t : Nat) : w.Same (w.credit m t) := by
  have h : w.Same { w with record := { w.record with
      paid := some (w.record.base t + m)
      reminded := w.record.reminded && w.record.base t + m - t ≤ w.plan.lead } } :=
    ⟨rfl, rfl, rfl, rfl, rfl, rfl, rfl, rfl, rfl, rfl, rfl, rfl, rfl, rfl⟩
  exact ((h.trans (Work.same_recompute _ t)).trans (Work.same_remind _ t)).trans (Work.same_rekey _)

end Sys2Proof.Machine
end

