-- ==== Sys2Proof/Laws/Directory.lean ====
section
/-! SUPPORT. The bisection of R3 on a directory in order: it finds what the search by number finds, in at most 13 comparisons
(log entry 22). -/

namespace Sys2Proof.Machine

/-- The entry at a place of a table in canonical form is the one the table holds of its number. -/
theorem Table.get_of_getElem? {α : Type} {t : Table α} (hw : Table.wf t) {i k : Nat} {v : α} (h : t[i]? = some (k, v)) :
    Table.get k t = some v :=
  Table.get_of_mem hw (List.mem_of_getElem? h)

/-- Places of a table in canonical form are in the order of their numbers. -/
theorem Table.lt_of_getElem? {α : Type} {t : Table α} (hw : Table.wf t) {i j : Nat} {a b : Nat × α} (hi : t[i]? = some a)
    (hj : t[j]? = some b) (h : i < j) : a.1 < b.1 := by
  obtain ⟨li, ei⟩ := List.getElem?_eq_some_iff.1 hi
  obtain ⟨lj, ej⟩ := List.getElem?_eq_some_iff.1 hj
  have := List.pairwise_iff_getElem.1 hw i j li lj h
  rwa [ei, ej] at this

/-- Bisection of the places from `low` to below `high`, when they are less than `2 ^ fuel` in number and every entry of the
number sought stands between them: it finds the slot of the number, with at most `fuel` comparisons (R3). -/
theorem bisect_between {dir : Table Nat} (hw : Table.wf dir) (kit : Nat) :
    ∀ (fuel low high : Nat), high ≤ dir.length → high - low < 2 ^ fuel →
      (∀ (i : Nat) (a : Nat × Nat), dir[i]? = some a → a.1 = kit → low ≤ i ∧ i < high) →
      (bisect dir kit fuel low high).1 = dir.get kit ∧ (bisect dir kit fuel low high).2 ≤ fuel := by
  have absent : ∀ low high : Nat, high ≤ low → (∀ (i : Nat) (a : Nat × Nat), dir[i]? = some a → a.1 = kit → low ≤ i ∧ i < high) →
      dir.get kit = none := by
    intro low high h hb
    cases e : dir.get kit with
    | none => rfl
    | some v =>
      obtain ⟨i, hi⟩ := List.mem_iff_getElem?.1 (Table.mem_of_get e)
      have := hb i _ hi rfl
      omega
  intro fuel
  induction fuel with
  | zero =>
    intro low high _ h hb
    simp only [Nat.pow_zero] at h
    exact ⟨(absent low high (by omega) hb).symm, by simp [bisect]⟩
  | succ fuel ih =>
    intro low high hlen h hb
    simp only [bisect]
    split
    · next hle => exact ⟨(absent low high hle hb).symm, by simp⟩
    · next hlt =>
      have hm : (low + high) / 2 < dir.length := by omega
      rw [List.getElem?_eq_getElem hm]
      have em := List.getElem?_eq_getElem hm
      generalize dir[(low + high) / 2] = entry at em
      obtain ⟨k, slot⟩ := entry
      simp only
      split
      · next hk => subst hk; exact ⟨(Table.get_of_getElem? hw em).symm, by simp⟩
      · next hk =>
        rw [Nat.pow_succ] at h
        have above := ih ((low + high) / 2 + 1) high hlen (by omega)
        have below := ih low ((low + high) / 2) (by omega) (by omega)
        split
        · next hlt =>
          have := above fun i a ha hak => by
            have hb' := hb i a ha hak
            refine ⟨?_, hb'.2⟩
            by_contra hn
            rcases Nat.lt_or_eq_of_le (show i ≤ (low + high) / 2 by omega) with g | g
            · have := Table.lt_of_getElem? hw ha em g
              simp only at this
              omega
            · rw [g, em] at ha
              exact hk (by rw [← hak, ← Option.some.inj ha])
          exact ⟨this.1, by simp only; omega⟩
        · next hge =>
          have := below fun i a ha hak => by
            have hb' := hb i a ha hak
            refine ⟨hb'.1, ?_⟩
            by_contra hn
            rcases Nat.lt_or_eq_of_le (show (low + high) / 2 ≤ i by omega) with g | g
            · have := Table.lt_of_getElem? hw em ha g
              simp only at this
              omega
            · rw [← g, em] at ha
              exact hk (by rw [← hak, ← Option.some.inj ha])
          exact ⟨this.1, by simp only; omega⟩

/-- Bisection of a whole directory of at most 4096 kits finds what the search by number finds, in at most 13 comparisons (R3). -/
theorem bisect_spec {dir : Table Nat} (hw : Table.wf dir) (hl : dir.length ≤ 4096) (kit : Nat) :
    (bisect dir kit 13 0 dir.length).1 = dir.get kit ∧ (bisect dir kit 13 0 dir.length).2 ≤ 13 :=
  bisect_between hw kit 13 0 dir.length (le_refl _) (by omega) fun i _ h _ =>
    ⟨Nat.zero_le i, (List.getElem?_eq_some_iff.1 h).1⟩

end Sys2Proof.Machine
end

