-- ==== Sys2Proof/Laws/Lines.lean ====
section
/-! SUPPORT. Laws of the line units: what each event of a line leaves, and that each keeps a sound line sound (chapter 9). -/

namespace Sys2Proof.Machine

theorem State.onLine_eq (s : State) (n : LineNo) (f : Line → Line) : s.onLine n f = s.withLine n (f (s.lines.get n)) := rfl

theorem State.send_eq (s : State) (n : LineNo) (i : LineItem) :
    s.send n i = s.withLine n { s.lines.get n with inFlight := (s.lines.get n).inFlight ++ [i] } := rfl

/-! ## Line time passes -/

@[simp] theorem Line.advance_settings (l : Line) (k : Nat) : (l.advance k).settings = l.settings := rfl
@[simp] theorem Line.advance_assembler (l : Line) (k : Nat) : (l.advance k).assembler = l.assembler := rfl
@[simp] theorem Line.advance_inbound (l : Line) (k : Nat) : (l.advance k).inbound = l.inbound := rfl
@[simp] theorem Line.advance_outbound (l : Line) (k : Nat) : (l.advance k).outbound = l.outbound := rfl
@[simp] theorem Line.advance_flags (l : Line) (k : Nat) : (l.advance k).flags = l.flags := rfl
@[simp] theorem Line.advance_lastUnknown (l : Line) (k : Nat) : (l.advance k).lastUnknown = l.lastUnknown := rfl
@[simp] theorem Line.advance_take (l : Line) (k : Nat) : (l.advance k).take = l.take := rfl
@[simp] theorem Line.advance_silence (l : Line) (k : Nat) : (l.advance k).silence = l.silence + k := rfl
@[simp] theorem Line.advance_inFlight (l : Line) (k : Nat) : (l.advance k).inFlight = l.inFlight := rfl

theorem Line.advance_looking (l : Line) (k : Nat) :
    (l.advance k).looking = if l.listening then l.looking + k else 0 := rfl

theorem Line.advance_quiet (l : Line) (k : Nat) :
    (l.advance k).quiet = if l.assembler = .hunt then l.quiet + k else l.quiet := rfl

theorem Line.advance_idle {l : Line} {k : Nat} : (l.advance k).transmitter = .idle ↔ l.transmitter = .idle := by
  cases h : l.transmitter <;> simp [Line.advance, h]

/-- An advance by nothing changes nothing but the time a receiver that is disregarded has looked. -/
theorem Line.advance_zero (l : Line) : l.advance 0 = { l with looking := if l.listening then l.looking else 0 } := by
  obtain ⟨_, _, _, _, tx, _, _, _, _, _, _, _⟩ := l
  cases tx <;> simp [Line.advance]

/-! ## A start bit under way -/

/-- Nothing but the quiet time begins anew at a start bit (R170). -/
theorem Line.hears_eq (l : Line) (start : Option Nat) : l.hears start = { l with quiet := (l.hears start).quiet } := by
  unfold Line.hears; split <;> rfl

theorem Line.hears_le (l : Line) (start : Option Nat) : (l.hears start).quiet ≤ l.quiet := by
  unfold Line.hears; split
  · exact Nat.le_refl _
  · simp only; split
    · exact Nat.min_le_left _ _
    · exact Nat.zero_le _

@[simp] theorem Line.hears_none (l : Line) : l.hears none = l := rfl

/-! ## Settings and deliveries -/

theorem Line.settle_same {l : Line} {new : Settings} (h : l.settings = new) : l.settle new = l := if_pos h

theorem Line.settle_other {l : Line} {new : Settings} (h : l.settings ≠ new) :
    l.settle new = { Line.started new with
      take := if l.take = .none then .none else .stale, inFlight := l.inFlight } := by
  simp only [Line.settle, if_neg h, Line.started]
  cases l.take <;> rfl

theorem Line.receive_reply {l : Line} (h : l.take = .current) (r : Reply) :
    l.receive (.reply r) = { l with outbound := l.outbound ++ [r], take := .none } := by simp [Line.receive, h]

theorem Line.receive_mark {l : Line} (h : l.take = .current) (x : Sender) :
    l.receive (.mark x) =
      { l with lastUnknown := some x, flags := { l.flags with unknownSender := true }, take := .none } := by
  simp [Line.receive, Line.mark, h]

theorem Line.receive_stale {l : Line} (h : l.take ≠ .current) (d : Delivery) : l.receive d = { l with take := .none } := by
  simp [Line.receive, h]

/-! ## The assembler -/

theorem Line.assemble_hunt {l : Line} (h : l.assembler = .hunt) (b : Byte) :
    l.assemble b = if b = lineMarker then { l with assembler := .length } else l := by simp [Line.assemble, h]

theorem Line.assemble_length {l : Line} (h : l.assembler = .length) (b : Byte) :
    l.assemble b = { l with assembler := .body b.toNat [] } := by simp [Line.assemble, h]

theorem Line.assemble_kind {l : Line} {n : Nat} (h : l.assembler = .body n []) (b : Byte) :
    l.assemble b = l.kindByte n b := by simp [Line.assemble, h]

theorem Line.assemble_body {l : Line} {n : Nat} {x : Byte} {xs : List Byte} (h : l.assembler = .body n (x :: xs))
    (hn : xs.length + 2 < n) (b : Byte) : l.assemble b = { l with assembler := .body n (x :: xs ++ [b]) } := by
  simp [Line.assemble, h, hn]

theorem Line.assemble_last {l : Line} {n : Nat} {x : Byte} {xs : List Byte} (h : l.assembler = .body n (x :: xs))
    (hn : n ≤ xs.length + 2) (b : Byte) :
    l.assemble b = ({ l with assembler := .hunt } : Line).offer (x :: xs ++ [b]) := by
  have : ¬xs.length + 2 < n := by omega
  simp [Line.assemble, h, this]

theorem Line.assemble_skip {l : Line} {n : Nat} (h : l.assembler = .skip n) (b : Byte) :
    l.assemble b = { l with assembler := if n ≤ 1 then .hunt else .skip (n - 1) } := by
  simp only [Line.assemble, h]; split <;> rfl

/-- What the bytes offered leave: at most one more message, within the queue, or the overrun flag (R168). -/
theorem Line.offer_cases (l : Line) (bytes : List Byte) :
    l.offer bytes = l ∨ (∃ m, l.inbound.length < 4 ∧ l.offer bytes = { l with inbound := l.inbound ++ [m] }) ∨
      l.offer bytes = { l with flags := { l.flags with messageOverrun := true } } := by
  unfold Line.offer
  cases messageOf bytes with
  | none => exact .inl rfl
  | some m =>
    by_cases h : l.inbound.length < 4
    · exact .inr (.inl ⟨m, h, if_pos h⟩)
    · exact .inr (.inr (if_neg h))

/-- What the kind byte leaves, for each of the checks of R166. -/
theorem Line.kindByte_cases (l : Line) (n : Nat) (b : Byte) :
    l.kindByte n b = { l with assembler := .hunt, flags := { l.flags with unknownKind := true } } ∨
    l.kindByte n b = { l with assembler := .hunt, flags := { l.flags with badLength := true } } ∨
    (kindLength b.toNat = some n ∧ takenIn l.settings.role b.toNat = true ∧
      l.kindByte n b = { l with assembler := .body n [b] }) ∨
    (kindLength b.toNat = some n ∧ takenIn l.settings.role b.toNat = false ∧
      l.kindByte n b = { l with assembler := .skip (n - 1), flags := { l.flags with wrongRole := true } }) := by
  simp only [Line.kindByte]
  split
  · exact .inl rfl
  · next m hm =>
    split
    · exact .inr (.inl rfl)
    · next hn =>
      have hn : n = m := by simpa using hn
      subst hn
      split
      · next ht => exact .inr (.inr (.inl ⟨hm, ht, rfl⟩))
      · next ht => exact .inr (.inr (.inr ⟨hm, by simpa using ht, rfl⟩))

/-- Every kind's length leaves room for the kind and a check (R190). -/
theorem kindLength_ge {k n : Nat} (h : kindLength k = some n) : 10 ≤ n := by
  unfold kindLength at h
  split at h <;> simp_all <;> omega

/-- The lengths of the kinds as a table (R190). -/
theorem kindLength_eq_lookup (b : Byte) :
    kindLength b.toNat =
      ([(0x31, 16), (0x32, 17), (0x41, 18), (0x42, 24), (0x43, 10), (0x44, 15)] : List (Byte × Nat)).lookup b := by
  revert b; decide +kernel

/-- The kinds that a role takes in (R166). -/
theorem takenIn_iff (role : Role) (b : Byte) :
    takenIn role b.toNat = true ↔ (role = .kit ∧ b = 0x31) ∨ (role = .agent ∧ (b = 0x41 ∨ b = 0x43)) := by
  have : ∀ role ∈ [Role.off, .kit, .agent], ∀ b : Byte,
      takenIn role b.toNat = true ↔ (role = .kit ∧ b = 0x31) ∨ (role = .agent ∧ (b = 0x41 ∨ b = 0x43)) := by decide +kernel
  exact this role (by cases role <;> simp) b

/-! ## A sound line stays sound -/

theorem Line.wf_started (settings : Settings) : (Line.started settings).wf := by
  simp [Line.started, Line.wf, Assembler.wf]

theorem Line.wf_stopped {l : Line} (h : l.wf) : l.stopped.wf := by
  obtain ⟨-, h2, -, h4, -, -, -⟩ := h
  refine ⟨by simp [Line.stopped], by simp [Line.stopped], by simp [Line.stopped, Config.lineQueue], fun g => ?_,
    by simp [Line.stopped], by simp [Line.stopped], rfl⟩
  exact ⟨rfl, rfl, rfl, rfl, (h4 g).2.2.2.2⟩

theorem Line.wf_hears {l : Line} (h : l.wf) (start : Option Nat) : (l.hears start).wf := by
  have hq := l.hears_le start
  rw [Line.hears_eq]
  obtain ⟨h1, h2, h3, h4, h5, h6, h7⟩ := h
  exact ⟨h1, h2, h3, h4, fun g => Nat.le_trans hq (h5 g), h6, h7⟩

theorem Line.wf_advance {l : Line} (h : l.wf) (k : Nat) : (l.advance k).wf := by
  obtain ⟨h1, h2, h3, h4, h5, h6, h7⟩ := h
  refine ⟨h1, h2, h3, fun g => ?_, fun g => ?_, fun g g' => h6 g (fun e => g' (Line.advance_idle.2 e)), h7⟩
  · obtain ⟨a, b, c, d, e⟩ := h4 g
    exact ⟨a, b, Line.advance_idle.2 c, d, e⟩
  · rw [Line.advance_assembler] at g
    rw [Line.advance_quiet, if_neg g]
    exact h5 g

/-- The quiet time a HALF duplex reply needs is longer than a character (R170). -/
theorem Settings.receiveUnits_lt (x : Settings) : x.receiveUnits < x.quietNeeded := by
  obtain ⟨_, rate, parity, stop, _⟩ := x
  cases rate <;> cases parity <;> cases stop <;>
    simp [Settings.receiveUnits, Settings.quietNeeded, Settings.charUnits, Settings.charBits, Parity.bitCount, StopBits.count,
      Rate.bitUnits, Config.unitsPerBitAt1200]

theorem Line.wf_settle {l : Line} (h : l.wf) (new : Settings) : (l.settle new).wf := by
  by_cases e : l.settings = new
  · rwa [Line.settle_same e]
  · rw [Line.settle_other e]
    refine ⟨by simp [Line.started], by simp [Line.started], by simp [Line.started, Config.lineQueue], fun _ => ?_,
      by simp [Line.started], by simp [Line.started], rfl⟩
    refine ⟨rfl, rfl, rfl, rfl, ?_⟩
    simp only
    split <;> simp

theorem Line.wf_receive {l : Line} (h : l.wf) (d : Delivery) : (l.receive d).wf := by
  obtain ⟨h1, h2, h3, h4, h5, h6, h7⟩ := h
  by_cases e : l.take = .current
  · have hr : l.settings.role ≠ .off := fun g => (h4 g).2.2.2.2 e
    cases d with
    | reply r =>
      rw [Line.receive_reply e]
      have := h3 e
      exact ⟨h1, by simp only [List.length_append, List.length_singleton]; omega, by simp, fun g => absurd g hr, h5, h6, h7⟩
    | mark x =>
      rw [Line.receive_mark e]
      exact ⟨h1, h2, by simp, fun g => absurd g hr, h5, h6, h7⟩
  · rw [Line.receive_stale e]
    refine ⟨h1, h2, by simp, fun g => ?_, h5, h6, h7⟩
    obtain ⟨a, b, c, d, -⟩ := h4 g
    exact ⟨a, b, c, d, by simp⟩

/-- A character takes some time. -/
theorem Settings.charUnits_pos (x : Settings) : 0 < x.charUnits := by
  obtain ⟨_, rate, _, _, _⟩ := x
  refine Nat.mul_pos (by simp only [Settings.charBits]; omega) ?_
  cases rate <;> simp [Rate.bitUnits, Config.unitsPerBitAt1200]

theorem Line.wf_begin {l : Line} (h : l.wf) (start : Option Nat) : (l.begin start).wf := by
  have h := Line.wf_hears h start
  unfold Line.begin
  generalize l.hears start = l at h
  obtain ⟨h1, h2, h3, h4, h5, h6, h7⟩ := h
  simp only
  split
  · exact ⟨h1, h2, h3, h4, h5, h6, h7⟩
  · next r rest e =>
    split
    · next hb =>
      have hoff : l.settings.role ≠ .off := fun g => by rw [(h4 g).2.1] at e; cases e
      rw [e] at h2 h3
      simp only [List.length_cons] at h2 h3
      refine ⟨h1, by simp only; omega, fun g => by have := h3 g; simp only; omega, fun g => absurd g hoff, h5, fun g _ => ?_, h7⟩
      by_contra hh
      have hq : l.settings.quietNeeded ≤ l.quiet := by
        have g : l.settings.duplex = .half := g
        simp only [Line.mayBegin, g, Bool.and_eq_true] at hb
        simpa using hb.2
      have hr := l.settings.receiveUnits_lt
      have := h5 hh
      split at this <;> omega
    · exact ⟨h1, h2, h3, h4, h5, h6, h7⟩

theorem Line.wf_finish {l : Line} (h : l.wf) : l.finish.wf := by
  obtain ⟨h1, h2, h3, h4, h5, h6, h7⟩ := h
  simp only [Line.finish]
  split
  · exact ⟨h1, h2, h3, h4, h5, h6, h7⟩
  · split
    · refine ⟨h1, h2, h3, fun g => ?_, fun _ => Nat.zero_le _, fun _ g => absurd rfl g, h7⟩
      obtain ⟨a, b, -, d, e⟩ := h4 g
      exact ⟨a, b, rfl, d, e⟩
    · exact ⟨h1, h2, h3, h4, h5, h6, h7⟩

theorem Line.wf_silent {l : Line} (h : l.wf) (start : Option Nat) : (l.silent start).wf := by
  unfold Line.silent
  split
  · refine Line.wf_hears ?_ start
    obtain ⟨h1, h2, h3, h4, -, -, -⟩ := h
    simp only [Line.gap]
    split
    all_goals
      refine ⟨h1, h2, h3, fun g => ?_, by simp, fun _ _ => rfl, rfl⟩
      obtain ⟨a, b, c, -, e⟩ := h4 g
      exact ⟨a, b, c, rfl, e⟩
  · exact Line.wf_hears h start

/-- What a good character leaves as it was (R165 to R168). -/
theorem Line.assemble_keeps (l : Line) (b : Byte) :
    l.assemble b = { l with
      assembler := (l.assemble b).assembler, inbound := (l.assemble b).inbound, flags := (l.assemble b).flags } := by
  cases h : l.assembler with
  | hunt => rw [Line.assemble_hunt h]; split <;> rfl
  | length => rw [Line.assemble_length h]
  | skip n => rw [Line.assemble_skip h]
  | body n taken =>
    cases taken with
    | nil =>
      rw [Line.assemble_kind h]
      rcases l.kindByte_cases n b with e | e | ⟨-, -, e⟩ | ⟨-, -, e⟩ <;> rw [e]
    | cons x xs =>
      by_cases hn : xs.length + 2 < n
      · rw [Line.assemble_body h hn]
      · rw [Line.assemble_last h (by omega)]
        rcases ({ l with assembler := .hunt } : Line).offer_cases (x :: xs ++ [b]) with e | ⟨m, -, e⟩ | e <;> rw [e]

/-- A good character keeps the queue within its places, and what is in assembly possible for the role. -/
theorem Line.assemble_sound {l : Line} (h1 : l.inbound.length ≤ Config.lineQueue)
    (h2 : l.assembler.wf l.settings.role = true) (b : Byte) :
    (l.assemble b).inbound.length ≤ Config.lineQueue ∧ (l.assemble b).assembler.wf l.settings.role = true := by
  cases h : l.assembler with
  | hunt =>
    rw [Line.assemble_hunt h]
    split
    · exact ⟨h1, rfl⟩
    · exact ⟨h1, h2⟩
  | length => rw [Line.assemble_length h]; exact ⟨h1, rfl⟩
  | skip n => rw [Line.assemble_skip h]; exact ⟨h1, by simp only; split <;> rfl⟩
  | body n taken =>
    rw [h] at h2
    cases taken with
    | nil =>
      rw [Line.assemble_kind h]
      rcases l.kindByte_cases n b with e | e | ⟨hk, ht, e⟩ | ⟨-, -, e⟩ <;> rw [e]
      · exact ⟨h1, rfl⟩
      · exact ⟨h1, rfl⟩
      · have := kindLength_ge hk
        refine ⟨h1, ?_⟩
        simp only [Assembler.wf, hk, ht, List.length_nil, beq_self_eq_true, Bool.true_and, decide_eq_true_eq]
        omega
      · exact ⟨h1, rfl⟩
    | cons x xs =>
      by_cases hn : xs.length + 2 < n
      · rw [Line.assemble_body h hn]
        refine ⟨h1, ?_⟩
        simp only [Assembler.wf, Bool.and_eq_true, decide_eq_true_eq] at h2
        simp only [Assembler.wf, List.cons_append, List.length_append, List.length_singleton, Bool.and_eq_true,
          decide_eq_true_eq]
        exact ⟨h2.1, by omega⟩
      · rw [Line.assemble_last h (by omega)]
        rcases ({ l with assembler := .hunt } : Line).offer_cases (x :: xs ++ [b]) with e | ⟨m, hm, e⟩ | e <;> rw [e]
        · exact ⟨h1, rfl⟩
        · simp only at hm
          refine ⟨?_, rfl⟩
          simp only [List.length_append, List.length_singleton, Config.lineQueue]
          omega
        · exact ⟨h1, rfl⟩

/-- A hunting assembler is left for LENGTH alone (R165). -/
theorem Line.assemble_from_hunt (l : Line) (b : Byte) (h : l.assembler = .hunt) (g : (l.assemble b).assembler ≠ .hunt) :
    (l.assemble b).assembler = .length := by
  rw [Line.assemble_hunt h] at g ⊢
  split at g
  · rw [if_pos (by assumption)]
  · exact absurd h g

theorem Line.wf_beforeStart {l : Line} (h : l.wf) : l.beforeStart.wf := by
  obtain ⟨h1, h2, h3, h4, h5, h6, h7⟩ := h
  have g : l.gap.wf := by
    simp only [Line.gap]
    split
    all_goals
      refine ⟨h1, h2, h3, fun g => ?_, by simp, fun _ _ => rfl, rfl⟩
      obtain ⟨a, b, c, -, e⟩ := h4 g
      exact ⟨a, b, c, rfl, e⟩
  unfold Line.beforeStart
  split
  · exact g
  · exact ⟨h1, h2, h3, h4, h5, h6, h7⟩

/-- The start of a character changes the assembler and the flags alone. -/
theorem Line.beforeStart_keeps (l : Line) :
    l.beforeStart = { l with assembler := l.beforeStart.assembler, flags := l.beforeStart.flags } := by
  unfold Line.beforeStart Line.gap
  split_ifs <;> rfl

theorem Line.wf_character {l : Line} (h : l.wf) (b : Byte) (parityBit stopBit : Bool) :
    (l.character b parityBit stopBit).wf := by
  unfold Line.character
  split
  · exact h
  · next hl =>
    have hl : l.listening = true := by
      simp only [Line.foundStart, Bool.not_eq_true', Bool.not_eq_false, Bool.and_eq_true] at hl
      exact hl.1
    obtain ⟨hr, ht⟩ : l.settings.role ≠ .off ∧ (l.settings.duplex = .half → l.transmitter = .idle) := by
      simpa [Line.listening, imp_iff_not_or] using hl
    obtain ⟨k1, k2, k3, -, -, -, k7⟩ := Line.wf_beforeStart h
    have kl := l.beforeStart.assemble_from_hunt b
    have kr : l.beforeStart.settings.role ≠ .off := by rw [Line.beforeStart_keeps]; exact hr
    have kt : l.beforeStart.settings.duplex = .half → l.beforeStart.transmitter = .idle := by
      rw [Line.beforeStart_keeps]; exact ht
    generalize l.beforeStart = x at *
    simp only
    split
    · refine ⟨k1, k2, k3, fun g => absurd g kr, fun g => absurd rfl g, fun g g' => absurd (kt g) g', rfl⟩
    · obtain ⟨a1, a2⟩ := Line.assemble_sound k1 k7 b
      have e := x.assemble_keeps b
      generalize x.assemble b = y at *
      have e1 : y.outbound = x.outbound := by rw [e]
      have e2 : y.take = x.take := by rw [e]
      have e3 : y.settings = x.settings := by rw [e]
      have e4 : y.transmitter = x.transmitter := by rw [e]
      refine ⟨a1, by rw [← e1] at k2; exact k2, fun g => ?_, fun g => ?_, fun g => ?_, fun g g' => ?_, ?_⟩
      · simp only at g ⊢
        rw [e1]; exact k3 (e2 ▸ g)
      · simp only [e3] at g
        exact absurd g kr
      · simp only [e3] at g ⊢
        by_cases gx : x.assembler = .hunt
        · rw [if_pos gx, if_pos (kl gx g)]
        · rw [if_neg gx]; exact Nat.zero_le _
      · simp only [e3, e4] at g g'
        exact absurd (kt g) g'
      · simp only [e3]; exact a2

/-! ## What each event of a line leaves (R163, R167, R169, R170) -/

theorem Line.listening_iff {l : Line} :
    l.listening = true ↔ l.settings.role ≠ .off ∧ (l.settings.duplex = .full ∨ l.transmitter = .idle) := by
  cases h : l.settings.duplex <;> simp [Line.listening, h]

/-- The start bit under way that counts: one that fell while the receiver looked for it. -/
theorem Line.startBit_eq (l : Line) (start : Option Nat) :
    l.startBit start = match start with
      | none => none
      | some since => if l.listening = true ∧ since ≤ l.looking then some since else none := by
  cases start with
  | none => rfl
  | some since => simp [Line.startBit, Option.filter]

theorem Line.hears_quiet (l : Line) (start : Option Nat) :
    l.hears start = { l with quiet := match l.startBit start with
      | none => l.quiet
      | some since => if l.assembler = .hunt then min l.quiet since else 0 } := by
  unfold Line.hears
  cases l.startBit start <;> rfl

/-- The silence limit (R167): what it leaves where it holds, and only the start bit under way elsewhere. -/
theorem Line.silent_spec (l : Line) (start : Option Nat) :
    let limit := l.settings.gapLimit
    let silent := l.listening = true ∧ l.assembler ≠ .hunt ∧ limit < l.silence - (l.startBit start).getD 0
    (silent → l.silent start = { l with
      assembler := .hunt, quiet := (l.startBit start).getD (l.quiet + (l.silence - limit))
      flags := { l.flags with gap := l.flags.gap || l.assembler.assembling } }) ∧
    (¬silent → l.silent start = l.hears start) := by
  intro limit silent
  have hb : (l.listening && l.assembler ≠ .hunt && l.settings.gapLimit < l.silenceBefore start : Bool) = decide silent := by
    simp only [silent, Bool.decide_and, Bool.decide_eq_true, Bool.and_assoc]; rfl
  refine ⟨fun h => ?_, fun h => ?_⟩
  · have hg : l.gap = { l with
        assembler := .hunt, flags := { l.flags with gap := l.flags.gap || l.assembler.assembling } } := by
      unfold Line.gap
      cases l.assembler.assembling <;> simp
    rw [Line.silent, hb, decide_eq_true h, if_pos rfl, hg, Line.hears_quiet]
    change ({ l with
      assembler := .hunt
      quiet := match l.startBit start with
        | none => l.quiet + (l.silence - limit)
        | some since => if Assembler.hunt = .hunt then min (l.quiet + (l.silence - limit)) since else 0
      flags := { l.flags with gap := l.flags.gap || l.assembler.assembling } } : Line) = _
    congr 1
    cases hs : l.startBit start with
    | none => simp
    | some since =>
      have := h.2.2
      rw [hs] at this
      simp only [Option.getD_some, if_true] at this ⊢
      have hl : limit = l.settings.gapLimit := rfl
      omega
  · rw [Line.silent, hb, decide_eq_false h, if_neg (by simp)]

/-- A reply begins where R170 allows, and else only the start bit under way counts. -/
theorem Line.begin_spec (l : Line) (start : Option Nat) :
    let heard := l.hears start
    let mayBegin := l.transmitter = .idle ∧ (l.settings.duplex = .full ∨ 2 * l.settings.charUnits ≤ heard.quiet)
    (∀ r rest, l.outbound = r :: rest → mayBegin →
      l.begin start = { heard with outbound := rest, transmitter := .sending r 0 }) ∧
    (l.outbound = [] ∨ ¬mayBegin → l.begin start = heard) := by
  intro heard mayBegin
  have ho : heard.outbound = l.outbound := by
    show (l.hears start).outbound = _
    rw [Line.hears_eq]
  have ht : heard.transmitter = l.transmitter := by
    show (l.hears start).transmitter = _
    rw [Line.hears_eq]
  have hs : heard.settings = l.settings := by
    show (l.hears start).settings = _
    rw [Line.hears_eq]
  have hb : heard.mayBegin = decide mayBegin := by
    simp only [Line.mayBegin, ht, hs, mayBegin, Bool.decide_and, Bool.decide_or, beq_eq_decide, Settings.quietNeeded]
  refine ⟨fun r rest h g => ?_, fun h => ?_⟩
  · simp only [Line.begin]
    change (match heard.outbound with
      | [] => heard
      | reply :: rest => if heard.mayBegin then { heard with outbound := rest, transmitter := .sending reply 0 } else heard) = _
    simp only [ho, h, hb, decide_eq_true g, if_true]
  · simp only [Line.begin]
    change (match heard.outbound with
      | [] => heard
      | reply :: rest => if heard.mayBegin then { heard with outbound := rest, transmitter := .sending reply 0 } else heard) = _
    rw [ho]
    cases hl : l.outbound with
    | nil => rfl
    | cons r rest =>
      have : ¬mayBegin := h.resolve_left (by simp [hl])
      simp only [hb, decide_eq_false this, Bool.false_eq_true, if_false]

/-- What the receiver makes of a character (R163, R165, R167, R170). -/
theorem Line.character_spec (l : Line) (b : Byte) (parityBit stopBit : Bool) :
    let length := l.settings.receiveUnits
    let before := l.beforeStart
    let fault := parityFault l.settings.parity b parityBit
    let heard := l.listening = true ∧ length ≤ l.looking
    (¬heard → l.character b parityBit stopBit = l) ∧
    (heard →
      (fault = true ∨ stopBit = false → l.character b parityBit stopBit = { before with
        assembler := .hunt
        looking := 0
        quiet := if before.assembler = .hunt then length else 0
        flags := { before.flags with
          parity := before.flags.parity || fault, framing := before.flags.framing || !stopBit } }) ∧
      (fault = false → stopBit = true → l.character b parityBit stopBit = { before.assemble b with
        silence := 0
        looking := 0
        quiet := if before.assembler = .hunt then length else 0 })) := by
  intro length before fault heard
  have hb : l.foundStart = decide heard := by
    simp only [Line.foundStart, heard, Bool.decide_and, Bool.decide_eq_true]; rfl
  have hu : before.settings.receiveUnits = length := by
    show l.beforeStart.settings.receiveUnits = _
    rw [Line.beforeStart_keeps]
  have hs : parityFault before.settings.parity b parityBit = fault := by
    show parityFault l.beforeStart.settings.parity b parityBit = _
    rw [Line.beforeStart_keeps]
  refine ⟨fun h => ?_, fun h => ⟨fun g => ?_, fun g g' => ?_⟩⟩
  · simp [Line.character, hb, h]
  · have g' : (fault || !stopBit) = true := by rcases g with g | g <;> simp [g]
    simp only [Line.character, hb, h, decide_true, Bool.not_true, Bool.false_eq_true, if_false]
    change ({ (if parityFault before.settings.parity b parityBit || !stopBit
        then before.faultyCharacter (parityFault before.settings.parity b parityBit) (!stopBit)
        else { before.assemble b with silence := 0 } : Line) with looking := 0, quiet := _ } : Line) = _
    rw [hs, if_pos g']
    simp only [Line.faultyCharacter, ← hu]
    rfl
  · have g'' : (fault || !stopBit) = false := by simp [g, g']
    simp only [Line.character, hb, h, decide_true, Bool.not_true, Bool.false_eq_true, if_false]
    change ({ (if parityFault before.settings.parity b parityBit || !stopBit
        then before.faultyCharacter (parityFault before.settings.parity b parityBit) (!stopBit)
        else { before.assemble b with silence := 0 } : Line) with looking := 0, quiet := _ } : Line) = _
    rw [hs, if_neg (by simpa using g'')]
    simp only [← hu]
    rfl

/-! ## The output (R160, R164, R174) -/

@[simp] theorem charLevels_length (x : Settings) (b : Byte) : (charLevels x b).length = x.charBits := by
  obtain ⟨_, _, parity, _, _⟩ := x
  cases parity <;> simp [charLevels, parityBitFor, Settings.charBits, Parity.bitCount] <;> omega

/-- The bit that runs of one length, joined, have at a place. -/
theorem getD_flatMap {α : Type} {f : α → List Bool} {n : Nat} (hf : ∀ a, (f a).length = n) :
    ∀ (l : List α) (i j : Nat) (a : α), l[i]? = some a → j < n → (l.flatMap f).getD (i * n + j) true = (f a).getD j true
  | [], i, _, _, h, _ => by simp at h
  | x :: l, 0, j, a, h, hj => by
    simp only [List.getElem?_cons_zero, Option.some.injEq] at h
    subst h
    simp only [List.flatMap_cons, Nat.zero_mul, Nat.zero_add, List.getD_eq_getElem?_getD]
    rw [List.getElem?_append_left (by rw [hf]; exact hj)]
  | x :: l, i + 1, j, a, h, hj => by
    have ih := getD_flatMap hf l i j a (by simpa using h) hj
    simp only [List.flatMap_cons, List.getD_eq_getElem?_getD] at ih ⊢
    rw [List.getElem?_append_right (by rw [hf, Nat.add_mul]; omega), hf,
      show (i + 1) * n + j - n = i * n + j by rw [Nat.add_mul]; omega, ih]

/-- The bits a character is sent as, one by one (R164). -/
theorem charLevels_getD (x : Settings) (b : Byte) {bit : Nat} (h : bit < x.charBits) :
    (charLevels x b).getD bit true =
      if bit = 0 then false
      else if bit ≤ 8 then b.getLsbD (bit - 1)
      else if bit = 9 then (parityBitFor x.parity b).getD true
      else true := by
  obtain ⟨_, _, parity, stop, _⟩ := x
  have : bit < 12 := by
    refine Nat.lt_of_lt_of_le h ?_
    cases parity <;> cases stop <;> simp [Settings.charBits, Parity.bitCount, StopBits.count]
  cases parity <;> cases stop <;> simp only [charLevels, parityBitFor, StopBits.count] <;>
    interval_cases bit <;> simp_all [Settings.charBits, Parity.bitCount, StopBits.count]

theorem Rate.bitUnits_pos (r : Rate) : 0 < r.bitUnits := by cases r <;> simp [Rate.bitUnits, Config.unitsPerBitAt1200]

/-- The level at a moment inside a bit of a reply (R164). -/
theorem Line.output_sending {l : Line} {r : Reply} {i bit part : Nat} {b : Byte} (hr : l.settings.role ≠ .off)
    (hi : r.bytes[i]? = some b) (hb : bit < l.settings.charBits) (hp : part < l.settings.rate.bitUnits)
    (ht : l.transmitter =
      .sending r (i * l.settings.charUnits + bit * l.settings.rate.bitUnits + part)) :
    l.output true = Level.ofBit ((charLevels l.settings b).getD bit true) := by
  have hd : (i * l.settings.charUnits + bit * l.settings.rate.bitUnits + part) / l.settings.rate.bitUnits =
      i * l.settings.charBits + bit := by
    rw [Settings.charUnits, ← Nat.mul_assoc, ← Nat.add_mul, Nat.add_comm,
      Nat.add_mul_div_right _ _ l.settings.rate.bitUnits_pos, Nat.div_eq_of_lt hp, Nat.zero_add]
  have hr' : (l.settings.role == .off) = false := by simpa using hr
  simp only [Line.output, Bool.not_true, hr', Bool.or_self, Bool.false_eq_true, if_false, ht, hd]
  rw [getD_flatMap (charLevels_length l.settings) _ _ _ _ hi hb]

end Sys2Proof.Machine
end

