-- ==== Sys2Proof/Laws/Port.lean ====
section
/-! SUPPORT. Laws of the management port's frames: the status a frame has latched, the bits shifted out, and what a frame
leaves in each supply state (chapter 10). -/

namespace Sys2Proof.Machine

/-- The attention line is asserted in RUNNING and STARTING while an enabled cause holds, and nowhere else (R182). -/
theorem State.attention_iff (s : State) :
    s.attention = true ↔ (s.supply.state = .running ∨ s.supply.state = .starting) ∧ (s.mask.inter s.causes).any = true := by
  simp [State.attention]

/-- A status byte has eight bits (R193). -/
@[simp] theorem Status.bits_length (x : Status) : x.bits.length = 8 := by
  obtain ⟨supply, port, _, _⟩ := x
  cases supply <;> cases port <;> rfl

/-- What is shifted out in `n` clocks: the run, then ones, cut at `n` (R175). -/
theorem shifted_eq (bits : List Bool) (n : Nat) :
    shifted bits n = (bits ++ List.replicate (n - bits.length) true).take n := by
  unfold shifted
  rw [List.take_append, List.take_of_length_le (by simp : (List.replicate (n - bits.length) true).length ≤ _)]

@[simp] theorem shifted_length (bits : List Bool) (n : Nat) : (shifted bits n).length = n := by
  simp [shifted]; omega

/-- The bit at a clock. -/
theorem shifted_getD (bits : List Bool) {n clock : Nat} (h : clock < n) :
    (shifted bits n).getD clock true = bits.getD clock true := by
  by_cases g : clock < bits.length
  · simp [shifted, List.getD_eq_getElem?_getD, List.getElem?_append, g, h]
  · have e : bits.take n = bits := List.take_of_length_le (by omega)
    simp only [shifted, e, List.getD_eq_getElem?_getD, List.getElem?_append_right (Nat.not_lt.1 g),
      List.getElem?_replicate, List.getElem?_eq_none (Nat.not_lt.1 g)]
    split <;> rfl

/-! ## What a frame has latched (R176, R180) -/

/-- A fall of select behind every change has latched the status of now. -/
@[simp] theorem State.latched_zero (s : State) : s.latched 0 = some s.status := rfl

/-- One that lies before a change has latched what stood then. -/
@[simp] theorem State.latched_succ (s : State) (n : Nat) : s.latched (n + 1) = s.port.earlier[n]? := rfl

/-- A frame that was ended before its rise has latched nothing that counts (R181). -/
theorem State.latched_none {s : State} {before : Nat} : s.latched before = none ↔ s.port.earlier.length < before := by
  simp only [State.latched, State.statuses, List.getElem?_eq_none_iff, List.length_cons]
  omega

/-! ## What the end of a frame leaves, in each supply state (R181) -/

section
variable {s : State} {before clocks : Nat} {x : Status} {live : Status → State}

theorem State.frame_ended (h : s.latched before = none) :
    s.frame before clocks live = { s with port := { s.port with earlier := [] } } := by simp only [State.frame, h]

theorem State.frame_live (h : s.latched before = some x) (g : s.supply.state = .running ∨ s.supply.state = .starting) :
    s.frame before clocks live = live x := by
  simp only [State.frame, h]
  rcases g with g | g <;> simp only [g]

theorem State.frame_stopping (h : s.latched before = some x) (g : s.supply.state = .stopping) :
    s.frame before clocks live =
      { s with port := { s.port with earlier := [], dataOut := shifted x.bits clocks } } := by
  simp only [State.frame, h, g, Port.frameEnded]

theorem State.frame_powerless (h : s.latched before = some x)
    (g : s.supply.state = .retaining ∨ s.supply.state = .unpowered) :
    s.frame before clocks live = { s with port := { s.port with earlier := [], dataOut := [] } } := by
  simp only [State.frame, h]
  rcases g with g | g <;> simp only [g, Port.frameEnded]
end

/-- The flags after a status byte of which so many bits were shifted out. -/
theorem Port.flagsReported_eq (p : Port) (x : Status) (clocks : Nat) :
    p.flagsReported x clocks = { p with
      overrun := p.overrun && !(x.overrun && decide (8 ≤ clocks)), torn := p.torn && !(x.torn && decide (8 ≤ clocks)) } := by
  unfold Port.flagsReported
  by_cases h : 8 ≤ clocks <;> simp [h]

/-! ## The level of data out -/

/-- A READ frame in RUNNING and STARTING records the levels that data out had at its clocks (R175, R179). -/
theorem State.readFrame_levels {s : State} (g : s.supply.state = .running ∨ s.supply.state = .starting) (x : Status)
    {clocks clock : Nat} (h : clock < 8 + clocks) :
    s.dataOutLevel (.low x true clock) = Level.ofBit ((s.readFrame x clocks).port.dataOut.getD clock true) := by
  have e : (s.readFrame x clocks).port.dataOut = shifted (x.bits ++ s.port.readBits x) (8 + clocks) := by
    unfold State.readFrame; dsimp only; split <;> rfl
  rw [e, shifted_getD _ h]
  rcases g with g | g <;> simp [State.dataOutLevel, g]

/-- Within a frame of a powered part: the bits of the status byte, then those of the response or ones (R175, R179). -/
theorem State.dataOutLevel_low {s : State} (g : s.supply.state = .running ∨ s.supply.state = .starting) (x : Status)
    (read : Bool) (clock : Nat) :
    s.dataOutLevel (.low x read clock) = Level.ofBit (
      if clock < 8 then x.bits.getD clock true
      else (if read then s.port.readBits x else []).getD (clock - 8) true) := by
  have e : s.dataOutLevel (.low x read clock) =
      Level.ofBit ((x.bits ++ if read then s.port.readBits x else []).getD clock true) := by
    rcases g with g | g <;> simp only [State.dataOutLevel, g]
  rw [e]
  simp only [List.getD_eq_getElem?_getD, List.getElem?_append, Status.bits_length]
  split <;> rfl

/-- A READ frame touches nothing but the port. -/
theorem State.readFrame_eq (s : State) (x : Status) (clocks : Nat) :
    s.readFrame x clocks = { s with port := (s.readFrame x clocks).port } := rfl

/-- Neither does the judgement of a request frame. -/
theorem State.judgeFrame_eq (s : State) (x : Status) (bits : List Bool) :
    s.judgeFrame x bits = { s with port := (s.judgeFrame x bits).port } := by
  unfold State.judgeFrame; dsimp only; split <;> rfl

end Sys2Proof.Machine
end

