-- ==== Sys2Proof/Laws/Settle.lean ====
section
/-! SUPPORT. Laws of settlement at deadlines and of re-keying: the pending entries and the pool after the settling step of
bringing current (R35), and what stands in the expiry index after re-keying (R105). -/

namespace Sys2Proof.Machine

/-! ## One entry -/

@[simp] theorem Engine.changeAgent_poolFree (e : Engine) (n : Nat) (f : Agent → Agent) :
    (e.changeAgent n f).poolFree = e.poolFree := by unfold Engine.changeAgent; split <;> rfl

@[simp] theorem Engine.changeAgent_settlement (e : Engine) (n : Nat) (f : Agent → Agent) :
    (e.changeAgent n f).settlement = e.settlement := by unfold Engine.changeAgent; split <;> rfl

@[simp] theorem Engine.changeAgent_expiry (e : Engine) (n : Nat) (f : Agent → Agent) :
    (e.changeAgent n f).expiry = e.expiry := by unfold Engine.changeAgent; split <;> rfl

@[simp] theorem Engine.changeAgent_notices (e : Engine) (n : Nat) (f : Agent → Agent) :
    (e.changeAgent n f).notices = e.notices := by unfold Engine.changeAgent; split <;> rfl

/-- What confirming or reversing an entry does to the pending list, the pool and the settlement index (step 1 of R76, R77). -/
structure Work.Drops (w : Work) (en : Entry) (w' : Work) : Prop where
  pending    : w'.record.pending = removeEntry en.reference w.record.pending
  poolFree   : w'.engine.poolFree = w.engine.poolFree + 1
  settlement : w'.engine.settlement = settleRemove w.record.kit en.reference w.engine.settlement

theorem Work.drops_changeAgent (w : Work) (en : Entry) (f : Agent → Agent) :
    w.Drops en { w.dropEntry en with engine := (w.dropEntry en).engine.changeAgent en.agent f } :=
  ⟨rfl, by simp [Work.dropEntry], by simp [Work.dropEntry]⟩

theorem Work.drops_confirmEntry (w : Work) (en : Entry) : w.Drops en (w.confirmEntry en).1 := by
  have h := w.drops_changeAgent en (fun a => a.settle en.amount)
  unfold Work.confirmEntry
  dsimp only
  split
  · exact h
  · split
    · exact ⟨h.1, h.2, h.3⟩
    · split
      · exact ⟨h.1, h.2, h.3⟩
      · exact ⟨h.1, h.2, h.3⟩

theorem Work.drops_reverseEntry (w : Work) (en : Entry) : w.Drops en (w.reverseEntry en) := by
  have h := w.drops_changeAgent en (fun a => a.unsettle en.amount)
  unfold Work.reverseEntry Work.raiseIf
  dsimp only
  split
  · exact h
  · split
    · exact ⟨h.1, h.2, h.3⟩
    · exact ⟨h.1, h.2, h.3⟩

theorem Work.drops_timedSettle (w : Work) (en : Entry) : w.Drops en (w.timedSettle en) := by
  unfold Work.timedSettle
  split
  · obtain ⟨h1, h2, h3⟩ := w.drops_confirmEntry en
    exact ⟨h1, h2, h3⟩
  · obtain ⟨h1, h2, h3⟩ := w.drops_reverseEntry en
    exact ⟨h1, h2, h3⟩

/-- An entry settled at its deadline raises TIMED SETTLEMENT. -/
theorem Work.timedSettle_raises (w : Work) (en : Entry) : (w.timedSettle en).record.notices.timedSettlement = true := by
  unfold Work.timedSettle
  split <;> rfl

/-! ## Every due entry (R35) -/

/-- With no entry due nothing is settled. -/
theorem Work.settleDue_of_none {w : Work} {t : Nat} (h : ∀ en ∈ w.record.pending, t < en.deadline) : w.settleDue t = w := by
  have : w.record.pending.filter (fun e => decide (e.deadline ≤ t)) = [] := by
    rw [List.filter_eq_nil_iff]
    intro en hen
    have := h en hen
    simp only [decide_eq_true_eq]
    omega
  simp [Work.settleDue, dueEntries, this]

theorem length_insertByDeadline (e : Entry) (l : List Entry) : (insertByDeadline e l).length = l.length + 1 := by
  induction l with
  | nil => rfl
  | cons f l ih => unfold insertByDeadline; split <;> simp [ih]

theorem length_foldl_insertByDeadline (l acc : List Entry) :
    (l.foldl (fun sorted e => insertByDeadline e sorted) acc).length = acc.length + l.length := by
  induction l generalizing acc with
  | nil => rfl
  | cons e l ih => simp only [List.foldl_cons, ih, length_insertByDeadline, List.length_cons]; omega

theorem length_dueEntries (t : Nat) (l : List Entry) :
    (dueEntries t l).length = (l.filter (fun e => decide (e.deadline ≤ t))).length := by
  simp [dueEntries, length_foldl_insertByDeadline]

/-- Settling some entries one after the other: those that stay carry none of their references, and each gives its place back. -/
theorem Work.foldl_timedSettle (l : List Entry) (w : Work) :
    (l.foldl Work.timedSettle w).record.pending =
        w.record.pending.filter (fun e => decide (e.reference ∉ l.map Entry.reference)) ∧
      (l.foldl Work.timedSettle w).engine.poolFree = w.engine.poolFree + l.length ∧
      (l ≠ [] → (l.foldl Work.timedSettle w).record.notices.timedSettlement = true) := by
  induction l using List.reverseRecOn with
  | nil => simp
  | append_singleton l en ih =>
    obtain ⟨h1, h2, -⟩ := ih
    obtain ⟨d1, d2, -⟩ := (l.foldl Work.timedSettle w).drops_timedSettle en
    rw [List.foldl_append]
    simp only [List.foldl_cons, List.foldl_nil, List.map_append, List.map_cons, List.map_nil, List.length_append,
      List.length_singleton]
    refine ⟨?_, by rw [d2, h2]; omega, fun _ => Work.timedSettle_raises _ _⟩
    rw [d1, h1, removeEntry, List.filter_filter]
    apply List.filter_congr
    intro e _
    simp only [← decide_not, beq_eq_decide, List.mem_append, List.mem_singleton]
    by_cases g : e.reference = en.reference <;> by_cases g' : e.reference ∈ l.map Entry.reference <;> simp [g, g']

/-- The settling step of bringing current: the entries due leave, the later ones stay in order, and the pool gains as many
places; TIMED SETTLEMENT is raised when any was due (R35). -/
theorem Work.settleDue_spec (w : Work) (t : Nat) :
    ((w.record.pending.map Entry.reference).Nodup →
      (w.settleDue t).record.pending = w.record.pending.filter (fun en => decide (t < en.deadline))) ∧
    (w.settleDue t).engine.poolFree =
      w.engine.poolFree + (w.record.pending.filter (fun en => decide (en.deadline ≤ t))).length ∧
    ((∃ en ∈ w.record.pending, en.deadline ≤ t) → (w.settleDue t).record.notices.timedSettlement = true) := by
  obtain ⟨h1, h2, h3⟩ := Work.foldl_timedSettle (dueEntries t w.record.pending) w
  refine ⟨fun hn => ?_, by rw [← length_dueEntries]; exact h2, fun ⟨en, he, hd⟩ => h3 ?_⟩
  · rw [Work.settleDue, h1]
    apply List.filter_congr
    intro e he
    simp only [decide_eq_decide, List.mem_map, not_exists, not_and]
    constructor
    · intro h
      by_contra hd
      exact h e (mem_dueEntries.2 ⟨he, by omega⟩) rfl
    · intro hd e' he' hr
      obtain ⟨hm, hd'⟩ := mem_dueEntries.1 he'
      have : e' = e := List.inj_on_of_nodup_map hn hm he hr
      subst this
      omega
  · exact List.ne_nil_of_mem (mem_dueEntries.2 ⟨he, hd⟩)

/-- After the settling step no entry is due (R35). -/
theorem Work.settleDue_settled (w : Work) (t : Nat) : ∀ en ∈ (w.settleDue t).record.pending, t < en.deadline := by
  intro en h
  rw [Work.settleDue, (Work.foldl_timedSettle _ w).1, List.mem_filter, decide_eq_true_eq] at h
  exact Nat.lt_of_not_le fun hle => h.2 (List.mem_map_of_mem (mem_dueEntries.2 ⟨h.1, hle⟩))

/-! ## Re-keying (R105) -/

/-- What stands in the index after re-keying: the entries of the other kits, and the new one. -/
theorem mem_rekeyed {index : List DueItem} {kit slot : Nat} {due : Option (DueKind × Nat)} {d : DueItem} :
    d ∈ rekeyed index kit slot due ↔
      (d ∈ index ∧ d.kit ≠ kit) ∨ due.map (fun x => (⟨x.2, kit, slot, x.1⟩ : DueItem)) = some d := by
  cases due with
  | none => simp [rekeyed, mem_dueRemove]
  | some x => simp [rekeyed, mem_dueInsert, mem_dueRemove, or_comm, eq_comm]

/-- Re-keying twice is re-keying once, with the later entry. -/
theorem rekeyed_rekeyed (index : List DueItem) (kit slot : Nat) (due due' : Option (DueKind × Nat)) :
    rekeyed (rekeyed index kit slot due) kit slot due' = rekeyed index kit slot due' := by
  have : dueRemove kit (rekeyed index kit slot due) = dueRemove kit index := by
    cases due with
    | none => exact dueRemove_dueRemove kit index
    | some x => exact (dueRemove_dueInsert ⟨x.2, kit, slot, x.1⟩ _).trans (dueRemove_dueRemove kit index)
  cases due' with
  | none => exact this
  | some x => exact congrArg (dueInsert ⟨x.2, kit, slot, x.1⟩) this

end Sys2Proof.Machine
end

