-- ==== Sys2Proof/Laws/Requests.lean ====
section
/-! SUPPORT. What the work of each record request leaves of a record that is current, and how the checks common to the
record requests come out. -/

namespace Sys2Proof.Machine

/-! ## The common checks (R11) -/

theorem kitInRange_iff {kit : Nat} : kitInRange kit = true ↔ 1 ≤ kit ∧ kit ≤ 4294967294 := by
  simp only [kitInRange, Bool.and_eq_true, decide_eq_true_eq]
  unfold Config.max32
  constructor <;> intro h <;> omega

theorem planInRange_iff {plan : Nat} : planInRange plan = true ↔ plan ≤ 31 := by
  simp only [planInRange, decide_eq_true_eq]
  unfold Config.planSlots
  omega

theorem agentInRange_iff {agent : Nat} : agentInRange agent = true ↔ 1 ≤ agent ∧ agent ≤ 64 := by
  simp only [agentInRange, Bool.and_eq_true, decide_eq_true_eq]
  unfold Config.agentSlots
  omega

theorem flagOf_isSome {n : Nat} : (flagOf n).isSome = true ↔ n ≤ 1 := by
  unfold flagOf
  split <;> simp_all
  omega

section
variable {e : Engine} {r : Request} {kit t : Nat} {good : Bool} {name : Option Result} {work : Work → Worked} {w : Work}

theorem Engine.onKit_badField (h : ¬(1 ≤ kit ∧ kit ≤ 4294967294 ∧ good = true)) :
    e.onKit r kit good name t work = some (e, kitResponse r kit .badField []) := by
  unfold Engine.onKit
  rw [if_pos]
  simp only [Bool.not_eq_true', ← Bool.not_eq_true, Bool.and_eq_true, kitInRange_iff]
  tauto

theorem Engine.onKit_unknownKit (h1 : 1 ≤ kit) (h2 : kit ≤ 4294967294) (h3 : good = true)
    (h : e.directory.get kit = none) : e.onKit r kit good name t work = some (e, kitResponse r kit .unknownKit []) := by
  unfold Engine.onKit Engine.find
  have : kitInRange kit = true := kitInRange_iff.mpr ⟨h1, h2⟩
  simp [this, h3, h]

theorem Engine.onKit_name {result : Result} (h1 : 1 ≤ kit) (h2 : kit ≤ 4294967294) (h3 : good = true)
    (h : e.find kit = .found w) : e.onKit r kit good (some result) t work = some (e, kitResponse r kit result []) := by
  unfold Engine.onKit
  have : kitInRange kit = true := kitInRange_iff.mpr ⟨h1, h2⟩
  simp [this, h3, h]

theorem Engine.onKit_found (h1 : 1 ≤ kit) (h2 : kit ≤ 4294967294) (h3 : good = true) (h : e.find kit = .found w) :
    e.onKit r kit good none t work =
      some ((work (w.current t)).1, kitResponse r kit (work (w.current t)).2.1 (work (w.current t)).2.2) := by
  unfold Engine.onKit
  have : kitInRange kit = true := kitInRange_iff.mpr ⟨h1, h2⟩
  simp [this, h, h3]
end

/-- What a search that finds a record says of the tables (R3). -/
theorem Engine.find_spec {e : Engine} {kit : Nat} {w : Work} (h : e.find kit = .found w) :
    w.engine = e ∧ e.directory.get kit = some w.slot ∧ e.accounts.get w.slot = some w.record ∧
      e.plans.get w.record.plan = some w.plan := by
  unfold Engine.find at h
  split at h
  · simp at h
  · rename_i slot hd
    split at h
    · simp at h
    · rename_i r hr
      split at h
      · simp at h
      · rename_i p hp
        simp only [Found.found.injEq] at h
        subst h
        exact ⟨rfl, hd, hr, hp⟩

/-! ## Raising a reminder -/

/-- Whether REMIND is due, as R36 words it. -/
theorem Record.remindDue_eq (r : Record) (p : Plan) (t : Nat) :
    r.remindDue p t =
      decide (r.state = .active ∧ 0 < p.lead ∧ r.paid.getD 0 - t ≤ p.lead ∧ r.reminded = false) := by
  simp only [Record.remindDue, Bool.decide_and, beq_eq_decide, Bool.decide_eq_false, Bool.and_assoc]

/-- REMIND, when it is due, joins the flags, and reminder raised becomes "yes"; nothing else changes (R36). -/
theorem Work.remind_eq (w : Work) (t : Nat) :
    w.remind t = { w with
      engine := { w.engine with
        notices := if w.record.remindDue w.plan t && decide (w.record.notices = .clear)
          then w.engine.notices ++ [w.record.kit] else w.engine.notices }
      record := { w.record with
        reminded := w.record.reminded || w.record.remindDue w.plan t
        notices := if w.record.remindDue w.plan t then w.record.notices.raise .remind else w.record.notices } } := by
  unfold Work.remind
  cases h : w.record.remindDue w.plan t
  · simp
  · by_cases hn : w.record.notices = .clear <;> simp [Work.raise, hn]

@[simp] theorem Work.remind_engine_notices (w : Work) (t : Nat) :
    (w.remind t).engine.notices = if w.record.remindDue w.plan t && decide (w.record.notices = .clear)
      then w.engine.notices ++ [w.record.kit] else w.engine.notices := by rw [Work.remind_eq]
@[simp] theorem Work.remind_engine_expiry (w : Work) (t : Nat) : (w.remind t).engine.expiry = w.engine.expiry := by
  rw [Work.remind_eq]
@[simp] theorem Work.remind_engine_agents (w : Work) (t : Nat) : (w.remind t).engine.agents = w.engine.agents := by
  rw [Work.remind_eq]
@[simp] theorem Work.remind_engine_plans (w : Work) (t : Nat) : (w.remind t).engine.plans = w.engine.plans := by
  rw [Work.remind_eq]
@[simp] theorem Work.remind_engine_accounts (w : Work) (t : Nat) :
    (w.remind t).engine.accounts = w.engine.accounts := by rw [Work.remind_eq]
@[simp] theorem Work.remind_engine_directory (w : Work) (t : Nat) :
    (w.remind t).engine.directory = w.engine.directory := by rw [Work.remind_eq]
@[simp] theorem Work.remind_engine_poolFree (w : Work) (t : Nat) :
    (w.remind t).engine.poolFree = w.engine.poolFree := by rw [Work.remind_eq]
@[simp] theorem Work.remind_engine_settlement (w : Work) (t : Nat) :
    (w.remind t).engine.settlement = w.engine.settlement := by rw [Work.remind_eq]
@[simp] theorem Work.remind_slot (w : Work) (t : Nat) : (w.remind t).slot = w.slot := by rw [Work.remind_eq]
@[simp] theorem Work.remind_plan (w : Work) (t : Nat) : (w.remind t).plan = w.plan := by rw [Work.remind_eq]
@[simp] theorem Work.remind_record (w : Work) (t : Nat) :
    (w.remind t).record = { w.record with
      reminded := w.record.reminded || w.record.remindDue w.plan t
      notices := if w.record.remindDue w.plan t then w.record.notices.raise .remind else w.record.notices } := by
  rw [Work.remind_eq]

/-! ## An accepted payment (R9) -/

/-- The record after a payment of `m` minutes at `t`, its due entry keyed anew. -/
theorem Work.credit_spec (w : Work) (m t : Nat) :
    let w' := w.credit m t
    w.Same w' ∧ w'.record.paid = some (w.record.base t + m) ∧
    w'.record.state = (if w.record.state = .suspended then .suspended else if w.record.state = .owned then .owned
      else creditState (some (w.record.base t + m)) w.plan.window t) ∧
    w'.record.due = w'.record.dueFor w.plan ∧
    w'.engine.expiry = rekeyed w.engine.expiry w.record.kit w.slot w'.record.due ∧
    w'.record.reason = w.record.reason ∧ w'.record.pending = w.record.pending ∧
    w'.record.residue = w.record.residue ∧ w'.record.confirmed = w.record.confirmed ∧
    w'.engine.agents = w.engine.agents ∧ w'.engine.poolFree = w.engine.poolFree ∧
    w'.engine.settlement = w.engine.settlement := by
  refine ⟨w.same_credit m t, ?_⟩
  simp only [Work.credit, Work.rekey, Work.remind_record, Work.remind_plan, Work.remind_slot, Work.remind_engine_expiry,
    Work.remind_engine_agents, Work.remind_engine_poolFree, Work.remind_engine_settlement, Work.recompute]
  simp only [true_and, and_true]
  unfold Record.recomputed
  cases h : w.record.state <;> simp <;> rfl

/-- The whole of an accepted payment of `m` minutes at `t` on a record that is not OWNED (R9, R114). -/
theorem Work.credit_eq {w : Work} (h : w.record.state ≠ .owned) (m t : Nat) :
    let paid := w.record.base t + m
    let state := if w.record.state = .suspended then .suspended else creditState (some paid) w.plan.window t
    let reminded := w.record.reminded && decide (paid - t ≤ w.plan.lead)
    let remind := state = .active ∧ 0 < w.plan.lead ∧ paid - t ≤ w.plan.lead ∧ reminded = false
    let r := { w.record with
      paid := some paid, state := state, reminded := reminded || decide remind
      notices := { w.record.notices with remind := w.record.notices.remind || decide remind } }
    w.credit m t = { w with
      engine := { w.engine with
        expiry := rekeyed w.engine.expiry w.record.kit w.slot (r.dueFor w.plan)
        notices := if remind ∧ w.record.notices = .clear then w.engine.notices ++ [w.record.kit] else w.engine.notices }
      record := { r with due := r.dueFor w.plan } } := by
  intro paid state reminded remind r
  have hs : (({ w.record with paid := some paid, reminded := reminded } : Record).recomputed w.plan t) = state := by
    simp only [Record.recomputed, state]
    cases e : w.record.state <;> simp_all
  have hd : Record.remindDue { w.record with paid := some paid, state := state, reminded := reminded } w.plan t =
      decide remind := Record.remindDue_eq ..
  have hc : w.credit m t = ((({ w with record := { w.record with paid := some paid, state := state, reminded := reminded } } :
      Work).remind t)).rekey := by
    rw [← hs]; rfl
  rw [hc, Work.remind_eq, hd]
  by_cases hr : remind <;> by_cases hn : w.record.notices = .clear <;>
    simp [Work.rekey, hr, hn, r, NoticeFlags.raise]

/-! ## Plan counts, conditional notices, due entries -/

/-- Changing the count of a DEFINED plan (R40). -/
theorem Engine.countPlan_eq {e : Engine} {n : Nat} {f : Nat → Nat} {p : Plan} (h : e.plans.get n = some p) :
    e.countPlan n f = { e with plans := e.plans.put n { p with refCount := f p.refCount } } := by
  simp [Engine.countPlan, h]

/-- What raising a notice on a condition does (R113, R114). -/
theorem Work.raiseIf_eq (w : Work) (c : Bool) (n : Notice) : w.raiseIf c n = { w with
    engine := { w.engine with
        notices := if c && decide (w.record.notices = .clear)
          then w.engine.notices ++ [w.record.kit] else w.engine.notices }
    record := { w.record with notices := if c then w.record.notices.raise n else w.record.notices } } := by
  cases c
  · rfl
  · by_cases hn : w.record.notices = .clear <;> simp [Work.raiseIf, Work.raise, hn]

/-- The due entry called for depends on state, paid-through and reminder raised alone (R104). -/
theorem Record.dueFor_congr {r r' : Record} (hs : r.state = r'.state) (hp : r.paid = r'.paid)
    (hr : r.reminded = r'.reminded) (p : Plan) : r.dueFor p = r'.dueFor p := by
  simp only [Record.dueFor, hs, hp, hr]

/-- Recomputation of a record that is neither SUSPENDED nor OWNED (R8). -/
theorem Record.recomputed_eq {r : Record} (h : r.state ≠ .suspended) (h' : r.state ≠ .owned) (p : Plan) (t : Nat) :
    r.recomputed p t = creditState r.paid p.window t := by
  unfold Record.recomputed
  cases hs : r.state <;> simp_all

/-- Recomputation looks at the state and at paid-through alone (R8). -/
theorem Record.recomputed_congr {r r' : Record} (hs : r.state = r'.state) (hp : r.paid = r'.paid) (p : Plan) (t : Nat) :
    r.recomputed p t = r'.recomputed p t := by
  simp only [Record.recomputed, hs, hp]

/-- Recomputing a second time at one instant changes nothing (R8, R37). -/
theorem Record.recomputed_recomputed (r : Record) (p : Plan) (t : Nat) :
    ({ r with state := r.recomputed p t } : Record).recomputed p t = r.recomputed p t := by
  have h : creditState r.paid p.window t ≠ .suspended ∧ creditState r.paid p.window t ≠ .owned := by
    unfold creditState; (repeat' split) <;> simp
  simp only [Record.recomputed]
  cases r.state <;> simp only <;> generalize creditState r.paid p.window t = z at * <;> cases z <;> simp_all

/-- The rounding of a conversion adds at most one minute to the quotient (R52). -/
theorem roundMinutes_le (m : Rounding) (rate q r : Nat) : roundMinutes m rate q r ≤ q + 1 := by
  unfold roundMinutes
  cases m <;> dsimp only <;> (repeat' split) <;> omega

/-- The residue that enters a PAY (R51). -/
theorem residueEntering_eq (m : Rounding) (r : Nat) : residueEntering m r = if m = .carry then r else 0 := by
  unfold residueEntering keptRemainder
  cases m <;> simp

theorem within_iff {a b v : Nat} : within a b v = true ↔ a ≤ v ∧ v ≤ b := by
  simp [within]

/-! ## The notices of a change of state (R36), and a reversal (R77) -/

/-- The notices raised against the state `b` held before: LAPSED, DEFAULTED and REMIND where R36 says so, and nothing else
changes but the notice list. -/
theorem Work.creditNotices_spec (w : Work) (b : RecordState) (t : Nat) :
    let w' := w.creditNotices b t
    let remind := w.record.remindDue w.plan t
    w'.record = { w.record with
        reminded := w.record.reminded || remind
        notices := { w.record.notices with
          lapsed := w.record.notices.lapsed ||
            (b == .active && (w.record.state == .lapsed || w.record.state == .defaulted))
          defaulted := w.record.notices.defaulted || ((b == .active || b == .lapsed) && w.record.state == .defaulted)
          remind := w.record.notices.remind || remind } } ∧
      w'.engine = { w.engine with notices := w'.engine.notices } ∧ w'.slot = w.slot ∧ w'.plan = w.plan := by
  simp only [Work.creditNotices, Work.remind_eq, Work.raiseIf_eq, and_true]
  have e : ∀ notices : NoticeFlags, ({ w.record with notices := notices } : Record).remindDue w.plan t =
      w.record.remindDue w.plan t := fun _ => rfl
  simp only [e]
  generalize w.record.remindDue w.plan t = x
  generalize (b == .active && (w.record.state == .lapsed || w.record.state == .defaulted)) = y
  generalize ((b == .active || b == .lapsed) && w.record.state == .defaulted) = z
  cases x <;> cases y <;> cases z <;> simp [NoticeFlags.raise]

/-- A reversal on a record that is not OWNED: the entry leaves, paid-through falls by its minutes, and OVERHANG is raised when
the offered RUN then reaches beyond paid-through (R77). -/
theorem Work.reverseEntry_spec {w : Work} (h : w.record.state ≠ .owned) (en : Entry) :
    let w' := w.reverseEntry en
    w'.record = { w.record with
        pending := removeEntry en.reference w.record.pending
        paid := w.record.paid.map (fun p => p - en.minutes)
        notices := { w.record.notices with
          overhang := w.record.notices.overhang || decide (0 < w'.record.overhang) } } ∧
      w'.engine = { (w.dropEntry en).engine.changeAgent en.agent (fun a => a.unsettle en.amount) with
        notices := w'.engine.notices } ∧ w'.slot = w.slot ∧ w'.plan = w.plan := by
  let r : Record := { w.record with
    pending := removeEntry en.reference w.record.pending, paid := w.record.paid.map (fun p => p - en.minutes) }
  let e := (w.dropEntry en).engine.changeAgent en.agent (fun a => a.unsettle en.amount)
  have hr : w.reverseEntry en = (⟨e, w.slot, r, w.plan⟩ : Work).raiseIf (decide (0 < r.overhang)) .overhang := if_neg h
  simp only [hr, Work.raiseIf_eq, and_true]
  refine ⟨?_, rfl⟩
  change ({ r with notices := _ } : Record) =
    { r with notices := { r.notices with overhang := r.notices.overhang || decide (0 < r.overhang) } }
  by_cases g : 0 < r.overhang <;> simp [g, NoticeFlags.raise]

/-- A set in which a notice has been raised is not empty. -/
theorem NoticeFlags.raise_ne_clear (f : NoticeFlags) (n : Notice) : f.raise n ≠ .clear := by
  cases n <;> simp [NoticeFlags.raise, NoticeFlags.clear]

/-- The notice list after the notices of R36: a record whose set was empty joins it when one is raised (R114). -/
theorem Work.creditNotices_list (w : Work) (b : RecordState) (t : Nat) :
    (w.creditNotices b t).engine.notices =
      if w.record.notices = .clear ∧
          ((b = .active ∧ (w.record.state = .lapsed ∨ w.record.state = .defaulted)) ∨
            ((b = .active ∨ b = .lapsed) ∧ w.record.state = .defaulted) ∨ w.record.remindDue w.plan t = true)
        then w.engine.notices ++ [w.record.kit] else w.engine.notices := by
  have e : ∀ notices : NoticeFlags, ({ w.record with notices := notices } : Record).remindDue w.plan t =
      w.record.remindDue w.plan t := fun _ => rfl
  simp only [Work.creditNotices, Work.remind_eq, Work.raiseIf_eq, e]
  generalize hx : (b == .active && (w.record.state == .lapsed || w.record.state == .defaulted)) = x
  generalize hy : ((b == .active || b == .lapsed) && w.record.state == .defaulted) = y
  generalize w.record.remindDue w.plan t = z
  have hx : (b = .active ∧ (w.record.state = .lapsed ∨ w.record.state = .defaulted)) ↔ x = true := by simp [← hx]
  have hy : ((b = .active ∨ b = .lapsed) ∧ w.record.state = .defaulted) ↔ y = true := by simp [← hy]
  simp only [hx, hy]
  by_cases hn : w.record.notices = .clear <;> cases x <;> cases y <;> cases z <;> simp [hn, NoticeFlags.raise_ne_clear]

/-- The notice list after a reversal on a record that is not OWNED (R77, R114). -/
theorem Work.reverseEntry_list {w : Work} (h : w.record.state ≠ .owned) (en : Entry) :
    (w.reverseEntry en).engine.notices =
      if w.record.notices = .clear ∧ 0 < (w.reverseEntry en).record.overhang
        then w.engine.notices ++ [w.record.kit] else w.engine.notices := by
  let r : Record := { w.record with
    pending := removeEntry en.reference w.record.pending, paid := w.record.paid.map (fun p => p - en.minutes) }
  have hr : (w.reverseEntry en).record.overhang = r.overhang := by rw [(Work.reverseEntry_spec h en).1]; rfl
  let e := (w.dropEntry en).engine.changeAgent en.agent (fun a => a.unsettle en.amount)
  have hw : w.reverseEntry en = (⟨e, w.slot, r, w.plan⟩ : Work).raiseIf (decide (0 < r.overhang)) .overhang := if_neg h
  have he : e.notices = w.engine.notices := Engine.changeAgent_notices ..
  rw [hr, hw, Work.raiseIf_eq]
  change (if (decide (0 < r.overhang) && decide (w.record.notices = .clear)) = true then e.notices ++ [w.record.kit]
    else e.notices) = _
  simp only [he, Bool.and_eq_true, decide_eq_true_eq, and_comm]

/-- The whole of the notices of R36. -/
theorem Work.creditNotices_eq (w : Work) (b : RecordState) (t : Nat) :
    let lapsed := b = .active ∧ (w.record.state = .lapsed ∨ w.record.state = .defaulted)
    let defaulted := (b = .active ∨ b = .lapsed) ∧ w.record.state = .defaulted
    let remind := w.record.state = .active ∧ 0 < w.plan.lead ∧ w.record.paid.getD 0 - t ≤ w.plan.lead ∧
      w.record.reminded = false
    w.creditNotices b t = { w with
      engine := { w.engine with
        notices := if w.record.notices = .clear ∧ (lapsed ∨ defaulted ∨ remind)
          then w.engine.notices ++ [w.record.kit] else w.engine.notices }
      record := { w.record with
        reminded := w.record.reminded || decide remind
        notices := { w.record.notices with
          lapsed := w.record.notices.lapsed || decide lapsed
          defaulted := w.record.notices.defaulted || decide defaulted
          remind := w.record.notices.remind || decide remind } } } := by
  intro lapsed defaulted remind
  obtain ⟨h1, h2, h3, h4⟩ := w.creditNotices_spec b t
  have h5 := w.creditNotices_list b t
  simp only [Record.remindDue_eq, decide_eq_true_eq] at h1 h5
  rw [h5] at h2
  calc w.creditNotices b t = ⟨(w.creditNotices b t).engine, (w.creditNotices b t).slot, (w.creditNotices b t).record,
        (w.creditNotices b t).plan⟩ := rfl
    _ = _ := by
      rw [h1, h2, h3, h4]
      simp only [lapsed, defaulted, remind, Bool.decide_and, Bool.decide_or, beq_eq_decide]

/-- The whole of a reversal on a record that is not OWNED. -/
theorem Work.reverseEntry_eq {w : Work} (h : w.record.state ≠ .owned) (en : Entry) :
    let paid := w.record.paid.map (fun p => p - en.minutes)
    let overhang := 0 < Record.overhang { w.record with paid := paid }
    w.reverseEntry en = { w with
      engine := { (w.dropEntry en).engine.changeAgent en.agent (fun a => a.unsettle en.amount) with
        notices := if w.record.notices = .clear ∧ overhang then w.engine.notices ++ [w.record.kit]
          else w.engine.notices }
      record := { w.record with
        pending := removeEntry en.reference w.record.pending, paid := paid
        notices := { w.record.notices with overhang := w.record.notices.overhang || decide overhang } } } := by
  intro paid overhang
  obtain ⟨h1, h2, h3, h4⟩ := Work.reverseEntry_spec h en
  have h5 := Work.reverseEntry_list h en
  have ho : (w.reverseEntry en).record.overhang = Record.overhang { w.record with paid := paid } := by rw [h1]; rfl
  rw [ho] at h1 h5
  rw [h5] at h2
  calc w.reverseEntry en = ⟨(w.reverseEntry en).engine, (w.reverseEntry en).slot, (w.reverseEntry en).record,
        (w.reverseEntry en).plan⟩ := rfl
    _ = _ := by rw [h1, h2, h3, h4]

/-- The whole of REVERSE on an entry of a record that is not OWNED (R80). -/
theorem Work.reverseNow_eq {w : Work} (h : w.record.state ≠ .owned) (en : Entry) (t : Nat) :
    let before := w.record.state
    let paid := w.record.paid.map (fun p => p - en.minutes)
    let state := if before = .suspended then .suspended else creditState paid w.plan.window t
    let overhang := 0 < Record.overhang { w.record with paid := paid }
    let lapsed := before = .active ∧ (state = .lapsed ∨ state = .defaulted)
    let defaulted := (before = .active ∨ before = .lapsed) ∧ state = .defaulted
    let remind := state = .active ∧ 0 < w.plan.lead ∧ paid.getD 0 - t ≤ w.plan.lead ∧ w.record.reminded = false
    let r := { w.record with
      pending := removeEntry en.reference w.record.pending, paid := paid, state := state
      reminded := w.record.reminded || decide remind
      notices := { w.record.notices with
        overhang := w.record.notices.overhang || decide overhang
        lapsed := w.record.notices.lapsed || decide lapsed
        defaulted := w.record.notices.defaulted || decide defaulted
        remind := w.record.notices.remind || decide remind } }
    w.reverseNow en t = { w with
      engine := { (w.dropEntry en).engine.changeAgent en.agent (fun a => a.unsettle en.amount) with
        expiry := rekeyed w.engine.expiry w.record.kit w.slot (r.dueFor w.plan)
        notices := if w.record.notices = .clear ∧ (overhang ∨ lapsed ∨ defaulted ∨ remind)
          then w.engine.notices ++ [w.record.kit] else w.engine.notices }
      record := { r with due := r.dueFor w.plan } } := by
  intro before paid state overhang lapsed defaulted remind r
  let e := (w.dropEntry en).engine.changeAgent en.agent (fun a => a.unsettle en.amount)
  let r0 := { w.record with
    pending := removeEntry en.reference w.record.pending, paid := paid
    notices := { w.record.notices with overhang := w.record.notices.overhang || decide overhang } }
  have hs : r0.recomputed w.plan t = state := by
    by_cases g : w.record.state = .suspended
    · simp only [Record.recomputed, r0, state, before, g, if_true]
    · rw [Record.recomputed_eq (r := r0) g h]
      simp only [state, before, if_neg g, r0]
  have he : e.expiry = w.engine.expiry := Engine.changeAgent_expiry ..
  have hc : (w.reverseEntry en).recompute t = { w with
      engine := { e with
        notices := if w.record.notices = .clear ∧ overhang then w.engine.notices ++ [w.record.kit]
          else w.engine.notices }
      record := { r0 with state := state } } := by
    rw [Work.reverseEntry_eq h, ← hs]
    rfl
  rw [Work.reverseNow, if_neg h, hc, Work.creditNotices_eq, Work.rekey]
  change ({ w with
      engine := { e with
        expiry := rekeyed e.expiry w.record.kit w.slot (r.dueFor w.plan)
        notices := _ }
      record := { r with due := r.dueFor w.plan } } : Work) = _
  rw [he]
  have hn : (if ({ w.record.notices with overhang := w.record.notices.overhang || decide overhang } : NoticeFlags) = .clear ∧
        (lapsed ∨ defaulted ∨ remind)
      then (if w.record.notices = .clear ∧ overhang then w.engine.notices ++ [w.record.kit] else w.engine.notices) ++
        [w.record.kit]
      else (if w.record.notices = .clear ∧ overhang then w.engine.notices ++ [w.record.kit] else w.engine.notices)) =
      if w.record.notices = .clear ∧ (overhang ∨ lapsed ∨ defaulted ∨ remind) then w.engine.notices ++ [w.record.kit]
        else w.engine.notices := by
    by_cases g : overhang
    · have : ({ w.record.notices with overhang := w.record.notices.overhang || decide overhang } : NoticeFlags) ≠ .clear := by
        simp [g, NoticeFlags.clear]
      simp only [if_neg (show ¬(_ ∧ _) from fun c => this c.1)]
      simp [g]
    · have : ({ w.record.notices with overhang := w.record.notices.overhang || decide overhang } : NoticeFlags) =
        w.record.notices := by simp [g]
      rw [this]
      simp [g]
  exact congrArg (fun n => ({ w with
      engine := { (w.dropEntry en).engine.changeAgent en.agent (fun a => a.unsettle en.amount) with
        expiry := rekeyed w.engine.expiry w.record.kit w.slot (r.dueFor w.plan)
        notices := n }
      record := { r with due := r.dueFor w.plan } } : Work)) hn

/-! ## An entry settled at its deadline (R35, R76, R77, R81) -/

/-- The due entry of the earliest deadline, the first of equal ones, is the first that bringing current settles (R35). -/
theorem dueEntries_first {t : Nat} {en : Entry} {front back : List Entry} (ht : en.deadline ≤ t)
    (hf : ∀ x ∈ front, en.deadline < x.deadline) (hb : ∀ x ∈ back, en.deadline ≤ x.deadline) :
    dueEntries t (front ++ en :: back) = en :: dueEntries t (front ++ back) := by
  have head : ∀ acc : List Entry, (∀ x ∈ acc, en.deadline < x.deadline) → insertByDeadline en acc = en :: acc := by
    intro acc h
    cases acc with
    | nil => rfl
    | cons x rest => exact if_pos (h x (by simp))
  have tail : ∀ l acc : List Entry, (∀ x ∈ l, en.deadline ≤ x.deadline) →
      l.foldl (fun sorted e => insertByDeadline e sorted) (en :: acc) =
        en :: l.foldl (fun sorted e => insertByDeadline e sorted) acc := by
    intro l
    induction l with
    | nil => intros; rfl
    | cons x rest ih =>
      intro acc h
      have : insertByDeadline x (en :: acc) = en :: insertByDeadline x acc :=
        if_neg (Nat.not_lt.2 (h x (by simp)))
      simp only [List.foldl_cons, this]
      exact ih _ fun y hy => h y (by simp [hy])
  simp only [dueEntries, List.filter_append, List.filter_cons, ht, decide_true, if_true, List.foldl_append,
    List.foldl_cons]
  rw [head _ fun x hx => hf x ?_, tail _ _ fun x hx => hb x (List.mem_of_mem_filter hx)]
  have := mem_foldl_insertByDeadline.1 hx
  simp only [List.not_mem_nil, or_false] at this
  exact List.mem_of_mem_filter this

theorem Work.raise_eq (w : Work) (n : Notice) : w.raise n = { w with
    engine := { w.engine with
      notices := if w.record.notices = .clear then w.engine.notices ++ [w.record.kit] else w.engine.notices }
    record := { w.record with notices := w.record.notices.raise n } } := rfl

/-- A settlement leaves the state, or makes the record OWNED (R76, R77). -/
theorem Work.timedSettle_state (w : Work) (en : Entry) :
    (w.timedSettle en).record.state = w.record.state ∨ (w.timedSettle en).record.state = .owned := by
  unfold Work.timedSettle
  split
  · unfold Work.confirmEntry
    dsimp only
    split
    · exact .inl rfl
    · split
      · exact .inl rfl
      · split
        · exact .inr rfl
        · exact .inl rfl
  · left
    by_cases h : w.record.state = .owned
    · have : w.reverseEntry en = { w.dropEntry en with
          engine := (w.dropEntry en).engine.changeAgent en.agent (fun a => a.unsettle en.amount) } := if_pos h
      show (w.reverseEntry en).record.state = _
      rw [this]
      rfl
    · have := (Work.reverseEntry_spec h en).1
      show (w.reverseEntry en).record.state = _
      rw [this]

theorem Work.settleDue_owned {w : Work} (h : w.record.state = .owned) (t : Nat) :
    (w.settleDue t).record.state = .owned := by
  have : ∀ (l : List Entry) (w : Work), w.record.state = .owned → (l.foldl Work.timedSettle w).record.state = .owned := by
    intro l
    induction l with
    | nil => exact fun _ h => h
    | cons en rest ih => exact fun w h => ih _ ((w.timedSettle_state en).elim (fun g => g.trans h) id)
  exact this _ w h

/-- A record that is OWNED after a change of state raises none of the notices of R36. -/
theorem Work.creditNotices_owned {w : Work} (h : w.record.state = .owned) (b : RecordState) (t : Nat) :
    w.creditNotices b t = w := by
  rw [Work.creditNotices_eq]
  simp only [h, reduceCtorEq, false_and, and_false, or_self, if_false, decide_false, Bool.or_false]
  rw [← h]

/-- Bringing current settles the first due entry, and goes on with what that leaves (R35). -/
theorem Work.current_timedSettle {w : Work} {t : Nat} {en : Entry} {front back : List Entry}
    (hp : w.record.pending = front ++ en :: back) (hn : (w.record.pending.map Entry.reference).Nodup)
    (ht : en.deadline ≤ t) (hf : ∀ x ∈ front, en.deadline < x.deadline)
    (hb : ∀ x ∈ back, en.deadline ≤ x.deadline) :
    (w.timedSettle en).record.pending = front ++ back ∧ w.current t = (w.timedSettle en).current t := by
  have hd : (w.timedSettle en).record.pending = front ++ back := by
    rw [(w.drops_timedSettle en).pending, hp, removeEntry]
    rw [hp] at hn
    simp only [List.map_append, List.map_cons, List.nodup_append, List.nodup_cons, List.mem_map, List.mem_cons,
      forall_exists_index, and_imp] at hn
    obtain ⟨-, ⟨h1, -⟩, h2⟩ := hn
    simp only [List.filter_append, List.filter_cons, beq_self_eq_true, Bool.not_true, Bool.false_eq_true, if_false]
    congr 1
    · rw [List.filter_eq_self]
      intro x hx
      simpa using fun e => h2 _ x hx rfl en.reference (.inl rfl) e
    · rw [List.filter_eq_self]
      intro x hx
      simpa using fun e => h1 ⟨x, hx, e⟩
  refine ⟨hd, ?_⟩
  have hs : w.settleDue t = (w.timedSettle en).settleDue t := by
    simp only [Work.settleDue, hp, hd, dueEntries_first ht hf hb, List.foldl_cons]
  unfold Work.current
  rw [hs]
  rcases w.timedSettle_state en with h | h
  · rw [h]
  · have : (((w.timedSettle en).settleDue t).recompute t).record.state = .owned := by
      simp [Work.recompute, Record.recomputed, Work.settleDue_owned h]
    rw [Work.creditNotices_owned this, Work.creditNotices_owned this]

/-- The whole of a settlement at the deadline under CONFIRM (R76, R78, R81). -/
theorem Work.timedSettle_confirm {w : Work} {en : Entry} (h : w.engine.policyOf en.agent = .confirm) :
    let e := { (w.dropEntry en).engine.changeAgent en.agent (fun a => a.settle en.amount) with
      notices := if w.record.notices = .clear then w.engine.notices ++ [w.record.kit] else w.engine.notices }
    let total := w.record.confirmed + en.amount
    let r := { w.record with
      pending := removeEntry en.reference w.record.pending
      notices := { w.record.notices with timedSettlement := true } }
    let paid := { r with residue := min (w.record.residue + en.remainder) 14399998560 }
    (w.record.state = .owned → w.timedSettle en = { w with engine := e, record := r }) ∧
    (w.record.state ≠ .owned → 0 < w.plan.price ∧ w.plan.price ≤ total → w.timedSettle en = { w with
      engine := { e with expiry := dueRemove w.record.kit w.engine.expiry }
      record := { paid with
        confirmed := w.plan.price, state := .owned, reason := none, due := none
        notices := { r.notices with owned := true } } }) ∧
    (w.record.state ≠ .owned → ¬(0 < w.plan.price ∧ w.plan.price ≤ total) → w.timedSettle en = { w with
      engine := e
      record := { paid with confirmed := if w.plan.price = 0 then min total 281474976710655 else total } }) := by
  intro e total r paid
  have hn : (w.dropEntry en).engine.notices = w.engine.notices := rfl
  have hc : ((w.dropEntry en).engine.changeAgent en.agent (fun a => a.settle en.amount)).notices = w.engine.notices :=
    Engine.changeAgent_notices ..
  have hx : ((w.dropEntry en).engine.changeAgent en.agent (fun a => a.settle en.amount)).expiry = w.engine.expiry :=
    Engine.changeAgent_expiry ..
  have hd : w.timedSettle en = (w.confirmEntry en).1.raise .timedSettlement := by simp only [Work.timedSettle, h]
  have hk : (w.dropEntry en).record.notices = w.record.notices := rfl
  refine ⟨fun ho => ?_, fun ho hp => ?_, fun ho hp => ?_⟩
  · have : (w.confirmEntry en).1 = { w.dropEntry en with
        engine := (w.dropEntry en).engine.changeAgent en.agent (fun a => a.settle en.amount) } := by
      unfold Work.confirmEntry
      simp only [show (w.dropEntry en).record.state = .owned from ho, if_true]
    rw [hd, this, Work.raise_eq]
    simp only [hk, hc]
    rfl
  · have : (w.confirmEntry en).1 = Work.becomeOwned { w.dropEntry en with
        engine := (w.dropEntry en).engine.changeAgent en.agent (fun a => a.settle en.amount)
        record := { (w.dropEntry en).record with
          residue := min (w.record.residue + en.remainder) 14399998560 } } := by
      unfold Work.confirmEntry
      have h0 : w.plan.price ≠ 0 := by omega
      have h1 : (w.dropEntry en).record.state ≠ .owned := ho
      have h2 : (w.dropEntry en).plan = w.plan := rfl
      simp only [h1, if_false, h2, h0]
      exact congrArg Prod.fst (if_pos hp.2)
    rw [hd, this]
    simp only [Work.becomeOwned, Work.unkey, Work.raise_eq, hk, hc, hx, NoticeFlags.raise]
    by_cases g : w.record.notices = .clear <;> simp [g, e, paid, r, Work.dropEntry, NoticeFlags.clear]
  · have : (w.confirmEntry en).1 = { w.dropEntry en with
        engine := (w.dropEntry en).engine.changeAgent en.agent (fun a => a.settle en.amount)
        record := { (w.dropEntry en).record with
          residue := min (w.record.residue + en.remainder) 14399998560
          confirmed := if w.plan.price = 0 then min total 281474976710655 else total } } := by
      unfold Work.confirmEntry
      have h1 : (w.dropEntry en).record.state ≠ .owned := ho
      have h2 : (w.dropEntry en).plan = w.plan := rfl
      simp only [h1, if_false, h2]
      by_cases h0 : w.plan.price = 0
      · simp only [h0, if_true]; rfl
      · have : ¬w.plan.price ≤ total := fun g => hp ⟨by omega, g⟩
        simp only [h0, if_false]
        exact congrArg Prod.fst (if_neg this)
    rw [hd, this, Work.raise_eq]
    simp only [hk, hc]
    rfl

/-- The whole of a settlement at the deadline under REVERSE (R77, R78, R81). -/
theorem Work.timedSettle_reverse {w : Work} {en : Entry} (h : w.engine.policyOf en.agent = .reverse) :
    let e := { (w.dropEntry en).engine.changeAgent en.agent (fun a => a.unsettle en.amount) with
      notices := if w.record.notices = .clear then w.engine.notices ++ [w.record.kit] else w.engine.notices }
    let r := { w.record with
      pending := removeEntry en.reference w.record.pending
      notices := { w.record.notices with timedSettlement := true } }
    let paid := w.record.paid.map (fun p => p - en.minutes)
    (w.record.state = .owned → w.timedSettle en = { w with engine := e, record := r }) ∧
    (w.record.state ≠ .owned → w.timedSettle en = { w with
      engine := e
      record := { r with
        paid := paid
        notices := { r.notices with
          overhang := w.record.notices.overhang || decide (0 < Record.overhang { w.record with paid := paid }) } } }) := by
  intro e r paid
  have hc : ((w.dropEntry en).engine.changeAgent en.agent (fun a => a.unsettle en.amount)).notices = w.engine.notices :=
    Engine.changeAgent_notices ..
  have hk : (w.dropEntry en).record.notices = w.record.notices := rfl
  have hd : w.timedSettle en = (w.reverseEntry en).raise .timedSettlement := by simp only [Work.timedSettle, h]
  refine ⟨fun ho => ?_, fun ho => ?_⟩
  · have : w.reverseEntry en = { w.dropEntry en with
        engine := (w.dropEntry en).engine.changeAgent en.agent (fun a => a.unsettle en.amount) } := if_pos ho
    rw [hd, this, Work.raise_eq]
    simp only [hk, hc]
    rfl
  · rw [hd, Work.reverseEntry_eq ho, Work.raise_eq]
    simp only [e, r, paid, NoticeFlags.raise]
    generalize Record.overhang _ = z
    by_cases g : w.record.notices = .clear
    · by_cases g2 : 0 < z <;> simp [g, g2, NoticeFlags.clear]
    · simp only [g, if_false, false_and]
      rw [if_neg]
      exact fun c => g (by revert c; cases w.record.notices; simp +contextual [NoticeFlags.clear])

/-! ## A good CHECK-IN (R129 to R131) -/

/-- What the report and the held number leave of the engine: a record whose set was empty joins the notice list with TAMPER or
GRANT MISMATCH (R114). -/
theorem Work.compareHeld_recordReport_engine (w : Work) (m : CheckInMsg) (n : LineNo) (t held : Nat) :
    ((w.recordReport m n t).compareHeld held).engine = { w.engine with
      notices := if w.record.notices = .clear ∧ (m.flags.getLsbD 0 = true ∨ w.record.offer.number < held)
        then w.engine.notices ++ [w.record.kit] else w.engine.notices } := by
  have hf : (kitFlagsOf m.flags).tamper = m.flags.getLsbD 0 := rfl
  simp only [Work.compareHeld, Work.recordReport, Work.raiseIf_eq, hf]
  by_cases h1 : w.record.notices = .clear <;> cases m.flags.getLsbD 0 <;>
    by_cases h3 : w.record.offer.number < held <;> simp [h1, h3, NoticeFlags.raise_ne_clear]

/-! ## A move to another plan (R20) -/

/-- The whole of steps 3 to 5 of R20. -/
theorem Work.settleOnPlan_eq (w : Work) (h : w.record.state ≠ .owned) (t : Nat) :
    let reaches := 0 < w.plan.price ∧ w.plan.price ≤ w.record.confirmed
    let joined := if w.record.notices = .clear then w.engine.notices ++ [w.record.kit] else w.engine.notices
    let state := creditState w.record.paid w.plan.window t
    let defaulted := w.record.state = .lapsed ∧ state = .defaulted
    let remind := state = .active ∧ 0 < w.plan.lead ∧ w.record.paid.getD 0 - t ≤ w.plan.lead ∧ w.record.reminded = false
    let r := { w.record with
      state := state, reminded := w.record.reminded || decide remind
      notices := { w.record.notices with
        defaulted := w.record.notices.defaulted || decide defaulted
        remind := w.record.notices.remind || decide remind } }
    (reaches → w.settleOnPlan t = { w with
      engine := { w.engine with expiry := dueRemove w.record.kit w.engine.expiry, notices := joined }
      record := { w.record with
        state := .owned, confirmed := w.plan.price, reason := none, due := none
        notices := { w.record.notices with owned := true } } }) ∧
    (¬reaches → w.record.state = .suspended → w.settleOnPlan t = w) ∧
    (¬reaches → w.record.state ≠ .suspended → w.settleOnPlan t = { w with
      engine := { w.engine with
        expiry := rekeyed w.engine.expiry w.record.kit w.slot (r.dueFor w.plan)
        notices := if defaulted ∨ remind then joined else w.engine.notices }
      record := { r with due := r.dueFor w.plan } }) := by
  intro reaches joined state defaulted remind r
  have hb : (0 < w.plan.price && w.plan.price ≤ w.record.confirmed : Bool) = decide reaches := by
    simp only [reaches, Bool.decide_and]
  refine ⟨fun g => ?_, fun g g' => ?_, fun g g' => ?_⟩
  · simp only [Work.settleOnPlan, hb, g, decide_true, if_true]
    rfl
  · simp only [Work.settleOnPlan, hb, g, decide_false, Bool.false_eq_true, if_false, g', if_true]
  · have hs : w.record.recomputed w.plan t = state := Record.recomputed_eq g' h ..
    have e : w.settleOnPlan t = ((({ w with record := { w.record with state := state } } : Work).raiseIf
        (w.record.state == .lapsed && state == .defaulted) .defaulted).remind t).rekey := by
      rw [← hs]
      simp only [Work.settleOnPlan, hb, g, decide_false, Bool.false_eq_true, if_false, g', Work.recompute]
    have hr : ∀ n : NoticeFlags, Record.remindDue { w.record with state := state, notices := n } w.plan t = decide remind :=
      fun n => Record.remindDue_eq ..
    rw [e, Work.remind_eq, Work.raiseIf_eq]
    simp only [hr]
    have hd : (w.record.state == .lapsed && state == .defaulted) = decide defaulted := by
      simp only [defaulted, Bool.decide_and, beq_eq_decide]
    simp only [hd, Work.rekey, joined, r]
    by_cases g1 : defaulted
    · have g2 : ¬remind := fun x => RecordState.noConfusion (x.1.symm.trans g1.2)
      by_cases g3 : w.record.notices = .clear <;> simp [g1, g2, g3, NoticeFlags.raise]
    · by_cases g2 : remind <;> by_cases g3 : w.record.notices = .clear <;> simp [g1, g2, g3, NoticeFlags.raise]

end Sys2Proof.Machine
end

