-- ==== Sys2Proof/WellFormed.lean ====
section
/-! DEFINITION. Which commands are well formed: a request frame has been clocked at all and is not a READ
frame, which has a command of its own (R175, R177, R179). Every other command is well formed with any operands. -/

namespace Sys2Proof

/-- The bits of the READ kind, 5Ah, most significant first (R175, R192). -/
def readKindBits : List Bool := [false, true, false, true, true, false, true, false]

/-- The command is one the part can be given as that row: the two checks are on the row REQUEST_FRAME. -/
def Instr.wellFormed : Instr → Bool
  | .requestFrame frame => !frame.bits.isEmpty && !(frame.bits.take 8 == readKindBits)
  | .enrolKit | .lookupKit | .suspendKit | .resumeKit | .setKitKey | .movePlan | .retireKit
  | .definePlan | .amendPlan | .readPlan | .releasePlan | .pay | .confirm | .reverse
  | .openAgent | .amendAgent | .readAgent | .barAgent | .unbarAgent | .closeAgent | .clearWatermark
  | .takeNotices | .nextDue | .tableSummary | .readTime | .setTime | .alignMinute | .setRegulation
  | .setLine | .readLine | .setAttentionMask | .readAttention | .unknownRequestKind
  | .checkIn | .topUp | .status | .expiryPass | .settlementPass
  | .readFrame _ | .timebaseStep | .regulationHoldEnd | .timeLoad | .alignCommand | .regulationWrite
  | .settingsCommand _ _ | .readCommand _ _ | .maskWrite | .lineDelivery _ | .receiveCharacter _ _ _ _ _
  | .gapTimeout _ _ | .replyBegin _ _ | .replyEnd _ _ | .mainSupplyGoodRise _ _ | .startComplete
  | .failWarningRise | .mainSupplyGoodFall _ | .backupBelowRetention | .backupLowChange _
  | .resetAssert | .resetRestart => true

end Sys2Proof
end

