-- ==== Sys2Proof/Tests/Slice0.lean ====
section
/-! SUPPORT. Small tests: the checks of well-formedness, the two cyclic checks, a few steps on a small shop of records, and for
each statement with hypotheses a state and operands that meet them. -/

open Sys2Proof Sys2Proof.Machine

namespace Sys2Proof.Tests

set_option Elab.async false

/-! ## Well-formedness, and no command has a word -/

theorem test_empty_frame_is_ill_formed : (Instr.requestFrame ⟨0, []⟩).wellFormed = false := by decide

theorem test_read_kind_is_ill_formed : (Instr.requestFrame ⟨0, readKindBits ++ [true]⟩).wellFormed = false := by decide

theorem test_other_frames_are_well_formed :
    (Instr.requestFrame ⟨0, [false]⟩).wellFormed = true ∧ (Instr.requestFrame ⟨2, spellBits [0x50]⟩).wellFormed = true := by
  decide

theorem test_no_row_gives_bits : decodeTableWord 8 0x5A = none := by decide

/-! ## A small shop: four plans, three agents, seven kits, at district minute 14400 (2000-01-11 00:00) -/

/-- A plan of one minute for each unit; purchase at 1000, CARRY and CLAMP. -/
def planA : Plan := ⟨1440, 1000, 10, 30, .clamp, .carry, 1440, 60, 120, 30, true, 4⟩

/-- A rental plan, NEAREST EVEN and REFUSE, without reminder and claw-back. -/
def planB : Plan := ⟨1440, 0, 10, 1, .refuse, .nearestEven, 1440, 60, 0, 1, false, 3⟩

/-- A plan of a low price that no record names. -/
def planC : Plan := ⟨7, 40, 1, 366, .clamp, .halfUp, 60, 15, 10080, 180, false, 0⟩

def blank (kit plan : Nat) (state : RecordState) (paid : Option Nat) : Record :=
  { kit := kit, state := state, reason := none, plan := plan, key := 0xFFFFFFFF, paid := paid, residue := 0, confirmed := 0,
    pending := [], offer := ⟨5, none, none⟩, acked := 5, reminded := false, lastCheckIn := none, energy := 0,
    kitFlags := ⟨false, false⟩, badChecks := 0, notices := .clear, due := none }

def entry (reference agent amount deadline : Nat) : Entry := ⟨reference, agent, amount, amount, 0, 14000, deadline⟩

def enrolled : Record := { blank 1 0 .enrolled none with badChecks := 7 }
def active : Record :=
  { blank 2 0 .active (some 15000) with
    confirmed := 40, offer := ⟨5, some .run, some 15000⟩, due := some (.remind, 14880) }
def suspended : Record := { blank 3 0 .suspended (some 15000) with reason := some 9 }
def owned : Record := { blank 4 0 .owned (some 100) with confirmed := 1000 }
def holding : Record :=
  { blank 5 1 .active (some 15000) with
    pending := [entry 100 1 50 14399, entry 101 2 60 14460], due := some (.lapse, 15000), notices := { NoticeFlags.clear with tamper := true } }
def lapsing : Record := { blank 6 1 .active (some 14400) with due := some (.lapse, 14400) }
def full : Record :=
  { blank 4294967294 1 .enrolled none with
    pending := [entry 1 64 10 14500, entry 2 64 10 14500, entry 3 64 10 14500, entry 4294967295 64 10 14500] }

def shopEngine : Engine :=
  { accounts := [(0, enrolled), (1, active), (2, suspended), (3, owned), (4, holding), (5, lapsing), (4095, full)]
    directory := [(1, 0), (2, 1), (3, 2), (4, 3), (5, 4), (6, 5), (4294967294, 4095)]
    plans := [(0, planA), (1, planB), (31, planC)]
    agents := [(1, ⟨false, 0xFFFFFFFF, 100, 50, 0, 0, .reverse, 1, false⟩),
      (2, ⟨true, 0xFFFFFFFF, 100, 60, 0, 0, .confirm, 168, true⟩),
      (3, ⟨false, 0xFFFFFFFF, 100, 0, 7, 8, .confirm, 2, true⟩),
      (64, ⟨false, 0xFFFFFFFF, 100, 40, 0, 0, .reverse, 2, false⟩)]
    poolFree := 2042
    expiry := [⟨14400, 6, 5, .lapse⟩, ⟨14880, 2, 1, .remind⟩, ⟨15000, 5, 4, .lapse⟩]
    settlement := [⟨14399, 5, 100⟩, ⟨14460, 5, 101⟩, ⟨14500, 4294967294, 1⟩, ⟨14500, 4294967294, 2⟩,
      ⟨14500, 4294967294, 3⟩, ⟨14500, 4294967294, 4294967295⟩]
    notices := [5] }

/-- The shop, running, with nothing at the port, no frame in progress there, and every line OFF. -/
def shop : State :=
  { State.reset with
    engine := shopEngine
    port := { State.reset.port with earlier := [] }
    calendar := ⟨.known, ⟨2000, 1, 11, 0, 0, 0⟩, 0, 14400, 0, 0, 0⟩ }

/-- The same with a calendar that has not been set. -/
def unset : State := { shop with calendar := .cold }

/-- A request stands in the port's buffer. -/
def asking (r : Request) (s : State) : State := { s with port := { s.port with state := .busy, request := some r.frame } }

def inRole (role : Role) (l : Line) : Line := { l with settings := { l.settings with role := role } }

/-- A message waits at line 3, whose turn it is. -/
def hearing (m : Message) (s : State) : State :=
  { s.withLine .line3 { inRole m.role (s.lines.get .line3) with inbound := [m] } with pointer := .line .line3 }

def checkIn (kit held flags : Nat) (good : Bool) : CheckInMsg :=
  let m : CheckInMsg := ⟨kit, held, 3, BitVec.ofNat 8 flags, 0⟩
  { m with check := keyedCheck (if good then 0xFFFFFFFF else 0) m.covered }

def topUp (agent kit amount reference : Nat) (good : Bool) : TopUpMsg :=
  let m : TopUpMsg := ⟨agent, kit, amount, reference, 0⟩
  { m with check := keyedCheck (if good then 0xFFFFFFFF else 0) m.covered }

def statusOf (agent kit : Nat) (good : Bool) : StatusMsg :=
  let m : StatusMsg := ⟨agent, kit, 0⟩
  { m with check := keyedCheck (if good then 0xFFFFFFFF else 0) m.covered }

/-- The work on a kit, as a search of the directory finds it. -/
def workIn (s : State) (kit : Nat) : Work :=
  match s.engine.find kit with
  | .found w => w
  | .unknown | .broken => ⟨s.engine, 0, enrolled, planA⟩

/-- The same brought current. -/
def nowIn (s : State) (kit : Nat) : Work := (workIn s kit).current s.instant

/-- The shop with another record in a slot. -/
def withRecord (slot : Nat) (r : Record) : State :=
  { shop with engine := { shop.engine with accounts := shop.engine.accounts.put slot r } }

/-- What a step leaves. -/
def after (c : Instr) (s : State) : State :=
  match exec c s with
  | .next t => t
  | .fault _ | .refused _ => s

/-- A step answers a next state. -/
def runs (c : Instr) (s : State) : Bool :=
  match exec c s with
  | .next _ => true
  | .fault _ | .refused _ => false

theorem exec_eq_after {c : Instr} {s : State} (h : runs c s = true) : exec c s = .next (after c s) := by
  unfold runs at h; unfold after; split at h <;> simp_all

/-- The request in the buffer is the one the next grant takes. -/
abbrev granted (r : Request) (s : State) : Prop := (asking r s).grantedRequest = some r

/-- The kit is in the directory, with its record and plan. A state that differs at the port only has the same tables. -/
abbrev finds (s : State) (kit : Nat) : Prop := s.engine.find kit = .found (workIn s kit)

/-- The result a request is answered with, once it is the one granted. -/
def result (c : Instr) (r : Request) (s : State) : Option Result :=
  if granted r s then (after c (asking r s)).port.response.map Response.result else none

/-- The message is the one the next grant takes. -/
abbrev heard (m : Message) (s : State) : Prop := (hearing m s).grantedMessage = some (.line3, m)

/-- What a step sends to line 3. -/
def sent (c : Instr) (m : Message) (s : State) : List LineItem := ((after c (hearing m s)).lines.get .line3).inFlight

/-- The result code a TOP-UP or STATUS is answered with. -/
def answer (c : Instr) (m : Message) (s : State) : Option Result :=
  match sent c m s with
  | [.delivery (.reply ⟨.topUp x, _⟩)] => some x.result
  | [.delivery (.reply ⟨.status x, _⟩)] => some x.result
  | _ => none

/-! ## The cyclic checks (R191, R193) -/

/-- The characters 1 to 9. -/
def digits : List Byte := (List.range 9).map (fun i => BitVec.ofNat 8 (0x31 + i))

theorem test_keyed_check_value : keyedCheck 0xFFFFFFFF digits = 0x340BC6D9 := by decide +kernel

theorem test_frame_check_value : frameCheck digits = 0x29B1 := by decide +kernel

/-! ## The queue and reset -/

theorem test_hypotheses_StepTakesFrontCommand : State.reset.pending = [] := by decide

theorem test_hypotheses_CommandsIgnoreTheQueue :
    exec .pay (asking (.pay 5 100) shop) = .next (after .pay (asking (.pay 5 100) shop)) :=
  exec_eq_after (by decide +kernel)

/-! ## Frames and messages -/

theorem test_hypotheses_RequestFramesRoundTrip :
    (Request.setTime ⟨65535, 255, 255, 255, 255, 255⟩ 255).fits = true ∧ (Request.pay 0 4294967295).fits = true ∧
    (Request.definePlan 255 ⟨0, 281474976710655, 1, 2, 3, 4, 5, 6, 7, 8, 9⟩).fits = true ∧
    Request.readTime.fits = true := by decide +kernel

theorem test_hypotheses_CompleteFramesAreWires :
    completeFrame (spellBits (Request.pay 5 100).frame.wire) = some (Request.pay 5 100).frame ∧
    (Request.pay 5 100).frame.wire.length ≤ 64 := by decide +kernel

theorem test_hypotheses_LineMessagesAssemble :
    (Message.checkIn (checkIn 2 5 3 true)).fits = true ∧ (Message.topUp (topUp 255 4294967295 7 1 true)).fits = true ∧
    (Message.status (statusOf 1 0 true)).fits = true ∧ (inRole .kit (.started .cold)).settings.role = .kit ∧
    (inRole .agent (.started .cold)).assembler = .hunt ∧ (inRole .agent (.started .cold)).inbound.length < 4 := by
  decide +kernel

/-- A line of a role in an assembler state, with so many messages in its inbound queue. -/
def assembling (role : Role) (a : Assembler) (queued : Nat) : Line :=
  { inRole role (.started .cold) with assembler := a, inbound := List.replicate queued (.status (statusOf 1 0 true)) }

/-- What a good character leaves: the assembler, the four flags of assembly, the count of queued messages. -/
def assembled (l : Line) (b : Byte) : Assembler × List Bool × Nat :=
  let l := l.assemble b
  (l.assembler, [l.flags.unknownKind, l.flags.badLength, l.flags.wrongRole, l.flags.messageOverrun], l.inbound.length)

/-- The hypotheses of the clauses on one character, and what they say at the edges of their ranges (R165). -/
theorem test_hypotheses_LineMessagesAssemble_states :
    [(assembling .kit .hunt 0, 0xA5), (assembling .kit .hunt 0, 0xA4), (assembling .kit .length 0, 255),
      (assembling .kit (.skip 2) 0, 0xA5), (assembling .kit (.skip 1) 0, 0xA5)].map
        (fun x : Line × Byte => (assembled x.1 x.2).1) =
      [.length, .hunt, .body 255 [], .skip 1, .hunt] := by decide +kernel

/-- The kind byte, with each of its three checks and past them (R166). -/
theorem test_hypotheses_LineMessagesAssemble_kind :
    [(assembling .kit (.body 16 []) 0, 0x33), (assembling .kit (.body 15 []) 0, 0x41), (assembling .kit (.body 17 []) 0, 0x32),
      (assembling .agent (.body 24 []) 0, 0x42), (assembling .agent (.body 15 []) 0, 0x44),
      (assembling .kit (.body 10 []) 0, 0x43), (assembling .agent (.body 16 []) 0, 0x31),
      (assembling .agent (.body 18 []) 0, 0x41), (assembling .kit (.body 16 []) 0, 0x31)].map
        (fun x : Line × Byte => assembled x.1 x.2) =
      [(.hunt, [true, false, false, false], 0), (.hunt, [false, true, false, false], 0),
        (.skip 16, [false, false, true, false], 0), (.skip 23, [false, false, true, false], 0),
        (.skip 14, [false, false, true, false], 0), (.skip 9, [false, false, true, false], 0),
        (.skip 15, [false, false, true, false], 0), (.body 18 [0x41], List.replicate 4 false, 0),
        (.body 16 [0x31], List.replicate 4 false, 0)] := by decide +kernel

/-- A byte of the body, and the last byte with three and with four messages queued (R165, R168). -/
theorem test_hypotheses_LineMessagesAssemble_body :
    [(assembling .agent (.body 10 (0x43 :: List.replicate 7 0)) 0, 0),
      (assembling .agent (.body 10 (0x43 :: List.replicate 8 0)) 3, 0),
      (assembling .agent (.body 10 (0x43 :: List.replicate 8 0)) 4, 0)].map
        (fun x : Line × Byte => assembled x.1 x.2) =
      [(.body 10 (0x43 :: List.replicate 8 0), List.replicate 4 false, 0), (.hunt, List.replicate 4 false, 4),
        (.hunt, [false, false, false, true], 4)] := by decide +kernel

/-! ## Requests on records -/

theorem test_hypotheses_BadRequestsAreRefused :
    (Request.pay 4294967295 5).onRecord = some (.pay, 4294967295, true) ∧ granted (.pay 4294967295 5) shop ∧
    (Request.confirm 5 0).onRecord = some (.confirm, 5, false) ∧ granted (.confirm 5 0) shop ∧
    (Request.lookupKit 4294967293).onRecord = some (.lookupKit, 4294967293, true) ∧ granted (.lookupKit 4294967293) shop ∧
    shop.engine.directory.get 4294967293 = none := by decide +kernel

/-- A frame of no request stands in the buffer. -/
def strange : State := { shop with port := { shop.port with state := .busy, request := some ⟨0xFF, [1]⟩ } }

theorem test_hypotheses_BadRequestsAreRefused_frame :
    strange.grantedFrame = some ⟨0xFF, [1]⟩ ∧ Frame.request ⟨0xFF, [1]⟩ = none := by decide +kernel

theorem test_hypotheses_EnrolKitWritesRecord :
    Table.wf shop.engine.accounts ∧ granted (.enrolKit 0 0 1 0) shop ∧ granted (.enrolKit 9 30 1 0) shop ∧
    shop.engine.plans.get 30 = none ∧ granted (.enrolKit 6 31 1 4294967294) shop ∧
    shop.engine.plans.get 31 = some planC ∧ (shop.engine.directory.get 6).isSome = true ∧
    granted (.enrolKit 4294967293 31 1 4294967294) shop ∧ shop.engine.directory.get 4294967293 = none ∧
    shop.engine.accounts.get 6 = none ∧ (∀ j < 6, (shop.engine.accounts.get j).isSome = true) := by decide +kernel

/-- The shop with the first `n` slots in use, and no other; the directory is the shop's. -/
def crowded (n : Nat) : State :=
  { shop with engine := { shop.engine with accounts := (List.range n).map (fun i => (i, blank (i + 10) 0 .enrolled none)) } }

theorem get_range (f : Nat → Record) (n j : Nat) :
    Table.get j ((List.range n).map (fun i => (i, f i))) = if j < n then some (f j) else none := by
  have key : ∀ l : List Nat, Table.get j (l.map (fun i => (i, f i))) = if j ∈ l then some (f j) else none := by
    intro l
    induction l with
    | nil => simp [Table.get]
    | cons a l ih => by_cases h : a = j <;> simp_all [Table.get, eq_comm]
  simp [key]

theorem crowded_wf (n : Nat) : Table.wf (crowded n).engine.accounts := by
  simp only [Table.wf, crowded, List.pairwise_map]
  exact List.pairwise_lt_range

theorem test_hypotheses_EnrolKitWritesRecord_full :
    granted (.enrolKit 7 0 1 0) (crowded 4096) ∧ Table.wf (crowded 4096).engine.accounts ∧
    (∀ j < 4096, ((crowded 4096).engine.accounts.get j).isSome = true) ∧
    (crowded 4095).engine.accounts.get 4095 = none ∧
    (∀ j < 4095, ((crowded 4095).engine.accounts.get j).isSome = true) := by
  refine ⟨by decide +kernel, crowded_wf _, fun j h => ?_, ?_, fun j h => ?_⟩ <;> simp [crowded, get_range] <;> omega

theorem test_hypotheses_LookupAndKeyRequests :
    granted (.lookupKit 5) shop ∧ finds shop 5 ∧ granted (.lookupKit 4294967294) shop ∧ finds shop 4294967294 ∧
    granted (.setKitKey 1 0) shop ∧ finds shop 1 := by decide +kernel

theorem test_hypotheses_SuspendAndResumeKit :
    granted (.suspendKit 3 1) shop ∧ finds shop 3 ∧ (nowIn shop 3).record.state = .suspended ∧
    granted (.suspendKit 4 1) shop ∧ finds shop 4 ∧ (nowIn shop 4).record.state = .owned ∧
    granted (.suspendKit 1 255) shop ∧ finds shop 1 ∧ (nowIn shop 1).record.state = .enrolled ∧
    granted (.resumeKit 2) shop ∧ finds shop 2 ∧ (nowIn shop 2).record.state ≠ .suspended ∧ granted (.resumeKit 3) shop := by
  decide +kernel

theorem test_hypotheses_MovePlanMovesRecord :
    granted (.movePlan 2 31) shop ∧ finds shop 2 ∧ shop.engine.plans.get 31 = some planC ∧
    (nowIn shop 2).record.state ≠ .owned ∧ (nowIn shop 2).record.pending = [] ∧ 31 ≠ (nowIn shop 2).record.plan ∧
    shop.engine.plans.get (nowIn shop 2).record.plan = some planA ∧ planC.price ≤ (nowIn shop 2).record.confirmed := by
  decide +kernel

theorem test_hypotheses_MovePlanMovesRecord_below_price :
    granted (.movePlan 3 1) shop ∧ finds shop 3 ∧ shop.engine.plans.get 1 = some planB ∧ planB.price = 0 ∧
    (nowIn shop 3).record.state = .suspended ∧ (nowIn shop 3).record.pending = [] ∧ 1 ≠ (nowIn shop 3).record.plan ∧
    shop.engine.plans.get (nowIn shop 3).record.plan = some planA ∧
    granted (.movePlan 6 31) shop ∧ finds shop 6 ∧ (nowIn shop 6).record.state = .lapsed ∧
    (nowIn shop 6).record.pending = [] ∧ 31 ≠ (nowIn shop 6).record.plan ∧ (nowIn shop 6).record.confirmed < planC.price ∧
    shop.engine.plans.get (nowIn shop 6).record.plan = some planB := by decide +kernel

/-- A record that a move to the third plan leaves ACTIVE below its price and within its lead. -/
def short : State := withRecord 1 { active with confirmed := 39 }

theorem test_hypotheses_MovePlanMovesRecord_early_ends :
    granted (.movePlan 4 31) shop ∧ finds shop 4 ∧ (nowIn shop 4).record.state = .owned ∧
    granted (.movePlan 5 31) shop ∧ finds shop 5 ∧ (nowIn shop 5).record.state ≠ .owned ∧
    (nowIn shop 5).record.pending ≠ [] ∧ granted (.movePlan 2 0) shop ∧ shop.engine.plans.get 0 = some planA ∧
    (nowIn shop 2).record.plan = 0 ∧ granted (.movePlan 2 31) short ∧ finds short 2 ∧
    (nowIn short 2).record.state = .active ∧ (nowIn short 2).record.confirmed < planC.price := by decide +kernel

theorem test_move_results :
    result .movePlan (.movePlan 4 31) shop = some .wrongState ∧ result .movePlan (.movePlan 5 31) shop = some .entriesPending ∧
    (after .movePlan (asking (.movePlan 2 0) shop)).port.response = some ⟨0x06, .done, [wordField 2, stateField (some .active)]⟩ ∧
    ((after .movePlan (asking (.movePlan 2 31) short)).engine.accounts.get 1).map (fun r => (r.reminded, r.notices.remind)) =
      some (true, true) ∧
    (after .movePlan (asking (.movePlan 2 31) short)).engine.notices = [5, 2] := by decide +kernel

theorem test_hypotheses_RetireKitRemovesRecord :
    granted (.retireKit 5 0) shop ∧ finds shop 5 ∧ (nowIn shop 5).record.pending ≠ [] ∧ granted (.retireKit 5 1) shop ∧
    granted (.retireKit 2 0) shop ∧ finds shop 2 ∧ (nowIn shop 2).record.pending = [] := by decide +kernel

/-! ## Requests on plans -/

/-- The fields of a plan at their smallest, and with another renew step and lease. -/
def leastPlan (lease renew : Nat) : PlanNums := ⟨1, 0, 1, 1, 1, 1, lease, renew, 0, 1, 0⟩

theorem test_definePlan_results :
    result .definePlan (.definePlan 30 (leastPlan 60 15)) shop = some .done ∧
    result .definePlan (.definePlan 31 (leastPlan 60 15)) shop = some .wrongState ∧
    result .definePlan (.definePlan 32 (leastPlan 60 15)) shop = some .badField ∧
    result .definePlan (.definePlan 30 (leastPlan 60 61)) shop = some .badField := by decide +kernel

theorem test_hypotheses_DefinePlanWritesPlan :
    granted (.definePlan 30 ⟨10000000, 1000000000000, 2000000000, 366, 2, 3, 10080, 1440, 10080, 180, 1⟩) shop ∧
    shop.engine.plans.get 30 = none ∧ capModeOf 2 = some .clamp ∧ roundingOf 3 = some .halfUp ∧ flagOf 1 = some true ∧
    granted (.definePlan 31 (leastPlan 60 15)) shop ∧ (shop.engine.plans.get 31).isSome = true ∧
    granted (.definePlan 32 (leastPlan 60 15)) shop := by decide +kernel

theorem test_amendPlan_results :
    result .amendPlan (.amendPlan 31 2047 (leastPlan 60 60)) shop = some .done ∧
    result .amendPlan (.amendPlan 30 0 (leastPlan 60 60)) shop = some .unknownPlan ∧
    result .amendPlan (.amendPlan 31 2048 (leastPlan 60 60)) shop = some .badField ∧
    result .amendPlan (.amendPlan 0 2 (leastPlan 60 60)) shop = some .planInUse := by decide +kernel

theorem test_hypotheses_AmendPlanWritesFields :
    granted (.amendPlan 0 1 ⟨2, 0, 0, 0, 0, 0, 0, 0, 0, 0, 0⟩) shop ∧ shop.engine.plans.get 0 = some planA ∧
    planA.renew ≤ planA.lease ∧ 0 < planA.refCount ∧
    granted (.amendPlan 0 2 (leastPlan 60 60)) shop ∧ (leastPlan 60 60).price ≠ planA.price ∧
    granted (.amendPlan 31 128 (leastPlan 60 61)) shop ∧ shop.engine.plans.get 31 = some planC ∧ planC.lease < 61 ∧
    granted (.amendPlan 30 0 (leastPlan 60 60)) shop ∧ shop.engine.plans.get 30 = none ∧
    granted (.amendPlan 31 2048 (leastPlan 60 60)) shop := by decide +kernel

theorem test_hypotheses_ReadPlanReports :
    granted (.readPlan 32) shop ∧ granted (.readPlan 30) shop ∧ shop.engine.plans.get 30 = none ∧
    granted (.readPlan 31) shop ∧ shop.engine.plans.get 31 = some planC := by decide +kernel

theorem test_hypotheses_ReleasePlanFreesSlot :
    granted (.releasePlan 32) shop ∧ granted (.releasePlan 30) shop ∧ shop.engine.plans.get 30 = none ∧
    granted (.releasePlan 0) shop ∧ shop.engine.plans.get 0 = some planA ∧ 0 < planA.refCount ∧
    granted (.releasePlan 31) shop ∧ shop.engine.plans.get 31 = some planC ∧ planC.refCount = 0 ∧
    granted (.enrolKit 7 30 0 0) shop ∧ granted (.movePlan 2 30) shop ∧ finds shop 2 := by decide +kernel

/-! ## Money -/

theorem test_hypotheses_ConversionIsExact :
    0 < planA.rate ∧ 0 < planB.rate ∧ 0 < planC.rate ∧
    convert planA 100 0 14400 14400 = some ⟨100, 100, 0, 0⟩ ∧ convert planA 43201 0 14400 14400 = some ⟨43200, 43200, 1, 0⟩ ∧
    convert planB 840 0 15000 14400 = some ⟨840, 840, 0, 0⟩ ∧ convert planB 841 0 15000 14400 = none ∧
    convert planA 10 0 57600 14400 = none := by decide +kernel

/-- Half a minute for each unit: an odd amount is a tie (R52). -/
theorem test_ties_are_rounded :
    (convert { planB with rate := 2880 } 1 0 14400 14400).map Conversion.minutes = some 0 ∧
    (convert { planB with rate := 2880 } 3 0 14400 14400).map Conversion.minutes = some 2 ∧
    (convert { planC with rate := 2880 } 1 0 14400 14400).map Conversion.minutes = some 1 ∧
    (convert { planA with rate := 2880 } 3 0 14400 14400).map Conversion.minutes = some 1 := by decide +kernel

theorem test_hypotheses_PayRefuses :
    granted (.pay 2 10) unset ∧ finds unset 2 ∧ unset.calendar.state = .unset ∧ shop.calendar.state = .known ∧
    granted (.pay 4 10) shop ∧ finds shop 4 ∧ (nowIn shop 4).record.state = .owned ∧
    granted (.pay 2 9) shop ∧ finds shop 2 ∧ (nowIn shop 2).record.state ≠ .owned ∧ 9 < (nowIn shop 2).plan.minimum ∧
    granted (.pay 5 891) shop ∧ finds shop 5 ∧ (nowIn shop 5).record.state ≠ .owned ∧ (nowIn shop 5).plan = planB ∧
    planB.minimum ≤ 891 ∧ planB.price = 0 ∧ planB.rounding ≠ .carry ∧
    convert planB 891 0 ((nowIn shop 5).record.base 14400) 14400 = none := by decide +kernel

theorem test_hypotheses_PayIsAccepted :
    granted (.pay 2 960) shop ∧ finds shop 2 ∧ (nowIn shop 2).record.state ≠ .owned ∧ (nowIn shop 2).plan = planA ∧
    planA.minimum ≤ 960 ∧ 0 < planA.price ∧ planA.price ≤ (nowIn shop 2).record.confirmed + 960 ∧
    granted (.pay 2 959) shop ∧ (nowIn shop 2).record.confirmed + 959 < planA.price ∧ planA.rounding = .carry ∧
    (nowIn shop 2).record.paid = some 15000 ∧ shop.instant < 15000 ∧
    convert planA 959 (nowIn shop 2).record.residue 15000 14400 = some ⟨959, 959, 0, 0⟩ := by decide +kernel

theorem test_hypotheses_PayIsAccepted_within_the_lead :
    granted (.pay 1 120) shop ∧ finds shop 1 ∧ (nowIn shop 1).record.state = .enrolled ∧ (nowIn shop 1).plan = planA ∧
    planA.lead = 120 ∧ convert planA 120 (nowIn shop 1).record.residue 14400 14400 = some ⟨120, 120, 0, 0⟩ ∧
    ((after .pay (asking (.pay 1 120) shop)).engine.accounts.get 0).map (fun r => (r.reminded, r.notices.remind)) =
      some (true, true) ∧
    (after .pay (asking (.pay 1 120) shop)).engine.notices = [5, 1] := by decide +kernel

/-- A purchase record with an entry, and an OWNED one. -/
def buying : State := withRecord 1 { active with pending := [entry 8 1 960 14401] }
def bought : State := withRecord 3 { owned with pending := [entry 8 1 960 14401] }

theorem test_hypotheses_ConfirmSettlesEntry :
    granted (.confirm 5 100) shop ∧ finds shop 5 ∧ findEntry 100 (nowIn shop 5).record.pending = none ∧
    granted (.confirm 5 101) shop ∧ findEntry 101 (nowIn shop 5).record.pending = some (entry 101 2 60 14460) ∧
    (nowIn shop 5).record.state ≠ .owned ∧ (nowIn shop 5).plan.price = 0 ∧
    granted (.confirm 2 8) buying ∧ finds buying 2 ∧ (nowIn buying 2).record.state ≠ .owned ∧
    findEntry 8 (nowIn buying 2).record.pending = some (entry 8 1 960 14401) ∧ 0 < (nowIn buying 2).plan.price ∧
    (nowIn buying 2).plan.price ≤ (nowIn buying 2).record.confirmed + 960 ∧
    granted (.confirm 4 8) bought ∧ finds bought 4 ∧ (nowIn bought 4).record.state = .owned ∧
    findEntry 8 (nowIn bought 4).record.pending = some (entry 8 1 960 14401) := by decide +kernel

/-- A record whose set was empty joins the notice list when it becomes OWNED, and no other CONFIRM changes the list (R114). -/
theorem test_confirm_and_the_notice_list :
    (nowIn buying 2).record.notices = .clear ∧ (after .confirm (asking (.confirm 2 8) buying)).engine.notices = [5, 2] ∧
    (nowIn shop 5).record.notices ≠ .clear ∧ (after .confirm (asking (.confirm 5 101) shop)).engine.notices = [5] ∧
    (nowIn bought 4).record.notices = .clear ∧ (after .confirm (asking (.confirm 4 8) bought)).engine.notices = [5] := by
  decide +kernel

theorem test_hypotheses_ReverseTakesMinutesBack :
    granted (.reverse 5 100) shop ∧ finds shop 5 ∧ findEntry 100 (nowIn shop 5).record.pending = none ∧
    granted (.reverse 5 101) shop ∧ findEntry 101 (nowIn shop 5).record.pending = some (entry 101 2 60 14460) ∧
    (nowIn shop 5).record.state ≠ .owned ∧
    granted (.reverse 4 8) bought ∧ finds bought 4 ∧ (nowIn bought 4).record.state = .owned ∧
    findEntry 8 (nowIn bought 4).record.pending = some (entry 8 1 960 14401) := by decide +kernel

/-- A record whose entry, once reversed, leaves it within the lead and its offer beyond paid-through. -/
def lending : State := withRecord 1 { active with paid := some 15060, pending := [entry 8 1 550 14401] }

theorem test_reverse_reminds_and_raises_overhang :
    granted (.reverse 2 8) lending ∧ finds lending 2 ∧ (nowIn lending 2).record.reminded = false ∧
    ((after .reverse (asking (.reverse 2 8) lending)).engine.accounts.get 1).map (fun r => (r.paid, r.state, r.reminded)) =
      some (some 14510, .active, true) ∧
    ((after .reverse (asking (.reverse 2 8) lending)).engine.accounts.get 1).map (fun r =>
      (r.notices.remind, r.notices.overhang)) = some (true, true) ∧
    (after .reverse (asking (.reverse 2 8) lending)).engine.notices = [5, 2] := by decide +kernel

/-! ## Requests on agents -/

theorem test_hypotheses_OpenAndAmendAgent :
    granted (.openAgent 65 ⟨1, 0, 1, 1⟩) shop ∧ granted (.openAgent 64 ⟨1, 0, 1, 1⟩) shop ∧
    (shop.engine.agents.get 64).isSome = true ∧ granted (.openAgent 63 ⟨1, 2000000000, 2, 168⟩) shop ∧
    shop.engine.agents.get 63 = none ∧ policyOf 2 = some .confirm ∧ policyOf 1 = some .reverse ∧
    granted (.amendAgent 1 16 ⟨0, 0, 0, 0⟩) shop ∧ granted (.amendAgent 63 0 ⟨0, 0, 0, 0⟩) shop ∧
    granted (.amendAgent 1 15 ⟨2, 0, 2, 1⟩) shop ∧ (shop.engine.agents.get 1).isSome = true := by decide +kernel

theorem test_agent_results :
    result .openAgent (.openAgent 63 ⟨1, 2000000000, 2, 168⟩) shop = some .done ∧
    result .openAgent (.openAgent 63 ⟨1, 0, 3, 168⟩) shop = some .badField ∧
    result .amendAgent (.amendAgent 1 15 ⟨2, 0, 2, 1⟩) shop = some .done ∧
    result .amendAgent (.amendAgent 1 8 ⟨2, 0, 2, 169⟩) shop = some .badField := by decide +kernel

theorem test_hypotheses_ReadAgentAndRefusals :
    granted (.readAgent 0) shop ∧ granted (.barAgent 65) shop ∧ granted (.unbarAgent 63) shop ∧ granted (.closeAgent 63) shop ∧
    shop.engine.agents.get 63 = none ∧ granted (.readAgent 64) shop ∧ (shop.engine.agents.get 64).isSome = true := by
  decide +kernel

theorem test_hypotheses_BarUnbarAndCloseAgent :
    granted (.barAgent 1) shop ∧ (shop.engine.agents.get 1).map Agent.barred = some false ∧ granted (.barAgent 2) shop ∧
    (shop.engine.agents.get 2).map Agent.barred = some true ∧ granted (.unbarAgent 1) shop ∧ granted (.unbarAgent 2) shop ∧
    granted (.closeAgent 1) shop ∧ (shop.engine.agents.get 1).map Agent.outstanding = some 50 ∧
    granted (.closeAgent 3) shop ∧ (shop.engine.agents.get 3).map Agent.outstanding = some 0 := by decide +kernel

theorem test_hypotheses_ClearWatermarkClears :
    granted (.clearWatermark 0) shop ∧ granted (.clearWatermark 65) shop ∧ granted (.clearWatermark 63) shop ∧
    shop.engine.agents.get 63 = none ∧ granted (.clearWatermark 64) shop ∧
    (shop.engine.agents.get 64).map Agent.watermark = some false ∧ granted (.clearWatermark 2) shop ∧
    (shop.engine.agents.get 2).map Agent.watermark = some true := by decide +kernel

/-! ## Requests on time, notices, the calendar -/

theorem test_hypotheses_TakeNoticesCollects :
    shop.engine.noticesWf ∧ granted (.takeNotices 0) shop ∧ granted (.takeNotices 9) shop ∧ granted (.takeNotices 1) shop ∧
    granted (.takeNotices 8) shop := by decide +kernel

theorem test_hypotheses_NextDueAndTableSummary :
    shop.engine.expiryWf ∧ granted (.nextDue 14400 6 0) shop ∧ granted (.nextDue 14400 6 9) shop ∧
    granted (.nextDue 14400 6 1) shop ∧ granted (.nextDue 0 0 8) shop ∧ granted .tableSummary shop := by decide +kernel

theorem test_hypotheses_ReadTimeReports : granted .readTime shop ∧ granted .readTime unset := by decide +kernel

/-- The engine holds something. -/
def holdingFor (h : Hold) (s : State) : State := { s with port := { s.port with state := .busy }, hold := some h }

def stopping (s : State) : State := { s with supply := { s.supply with state := .stopping } }

theorem test_hypotheses_SetTimeLoadsCalendar :
    granted (.setTime ⟨2000, 2, 30, 0, 0, 0⟩ 0) shop ∧ (DateTime.valid ⟨2000, 2, 30, 0, 0, 0⟩) = false ∧
    granted (.setTime ⟨2000, 1, 11, 0, 15, 1⟩ 0) shop ∧ shop.calendar.time.seconds + 901 = DateTime.seconds ⟨2000, 1, 11, 0, 15, 1⟩ ∧
    granted (.setTime ⟨2000, 1, 11, 0, 15, 0⟩ 0) shop ∧ shop.calendar.time.seconds + 900 = DateTime.seconds ⟨2000, 1, 11, 0, 15, 0⟩ ∧
    granted (.setTime ⟨2199, 12, 31, 23, 59, 59⟩ 1) shop ∧ granted (.setTime ⟨2000, 2, 29, 0, 0, 0⟩ 0) unset ∧
    granted (.setTime ⟨2000, 1, 11, 0, 15, 0⟩ 2) shop ∧ granted (.setTime ⟨2199, 12, 31, 23, 59, 59⟩ 255) unset ∧
    (holdingFor (.timeLoad shop.calendar ⟨2000, 1, 11, 0, 15, 0⟩) shop).takesResponse = true ∧
    (stopping (holdingFor (.timeLoad shop.calendar ⟨2000, 1, 11, 0, 15, 0⟩) shop)).takesResponse = false := by decide +kernel

theorem test_setTime_reads_the_step_while_set :
    result .setTime (.setTime ⟨2000, 1, 11, 0, 15, 0⟩ 2) shop = some .badField ∧
    result .setTime (.setTime ⟨2000, 1, 11, 0, 15, 1⟩ 0) shop = some .stepTooLarge ∧
    (after .setTime (asking (.setTime ⟨2199, 12, 31, 23, 59, 59⟩ 255) unset)).hold =
      some (.timeLoad .cold ⟨2199, 12, 31, 23, 59, 59⟩) := by decide +kernel

/-- The shop at another time of day. -/
def atTime (t : DateTime) (sub hold : Nat) (regulation : Int) : State :=
  { shop with calendar := ⟨.known, t, sub, t.districtMinute, regulation, hold, 0⟩ }

theorem test_hypotheses_AlignAndRegulationAct :
    granted .alignMinute unset ∧ granted .alignMinute shop ∧ (atTime ⟨2000, 12, 31, 23, 59, 30⟩ 5 0 0).calendar.wf ∧
    (atTime ⟨2000, 12, 31, 23, 59, 29⟩ 0 63 (-63)).calendar.wf ∧ (atTime ⟨2199, 12, 31, 23, 59, 30⟩ 5 0 0).calendar.wf ∧
    (holdingFor .align shop).takesResponse = true ∧ (stopping (holdingFor .align shop)).takesResponse = false ∧
    granted (.setRegulation 0xC0) shop ∧ (BitVec.ofNat 8 0xC0).toInt = -64 ∧ granted (.setRegulation 0xC1) shop ∧
    (BitVec.ofNat 8 0xC1).toInt = -63 ∧ granted (.setRegulation 63) shop ∧ granted (.setRegulation 64) shop := by
  decide +kernel

theorem test_hypotheses_CalendarCounts :
    (atTime ⟨2000, 1, 1, 0, 0, 0⟩ 0 1 0).calendar.wf ∧ (atTime ⟨2000, 1, 1, 0, 0, 0⟩ 1022 0 0).calendar.wf ∧
    (atTime ⟨2000, 1, 1, 0, 0, 58⟩ 1023 0 0).calendar.wf ∧ (atTime ⟨2000, 1, 1, 0, 9, 59⟩ 1023 0 63).calendar.wf ∧
    (atTime ⟨2000, 1, 1, 0, 9, 59⟩ 1023 0 (-63)).calendar.wf ∧ (atTime ⟨2199, 12, 31, 23, 59, 59⟩ 1023 0 0).calendar.wf ∧
    shop.supply.state = .running ∧ shop.pending = [] ∧ (atTime ⟨2000, 1, 1, 0, 0, 0⟩ 0 63 0).counting = true := by
  decide +kernel

theorem test_tenth_minute_is_regulated :
    (after .timebaseStep (atTime ⟨2000, 1, 1, 0, 9, 59⟩ 1023 0 63)).calendar =
      ⟨.known, ⟨2000, 1, 1, 0, 10, 0⟩, 63, 10, 63, 0, 1⟩ ∧
    (after .timebaseStep (atTime ⟨2000, 1, 1, 0, 9, 59⟩ 1023 0 (-63))).calendar =
      ⟨.known, ⟨2000, 1, 1, 0, 10, 0⟩, 0, 10, -63, 63, 1⟩ := by decide +kernel

theorem test_leap_day_and_end_of_range :
    (after .timebaseStep (atTime ⟨2000, 2, 28, 23, 59, 59⟩ 1023 0 0)).calendar.time = ⟨2000, 2, 29, 0, 0, 0⟩ ∧
    (after .timebaseStep (atTime ⟨2100, 2, 28, 23, 59, 59⟩ 1023 0 0)).calendar.time = ⟨2100, 3, 1, 0, 0, 0⟩ ∧
    (after .timebaseStep (atTime ⟨2199, 12, 31, 23, 59, 59⟩ 1023 0 0)).calendar.time = ⟨2199, 12, 31, 23, 59, 59⟩ := by
  decide +kernel

/-! ## Lines -/

/-- The shop with a line as given. -/
def onLine (n : LineNo) (l : Line) : State := shop.withLine n l

/-- A line of a role at 9600 bit/s: 80 line time units a character, 76 to the middle of its stop bit. -/
def lineOf (role : Role) : Line := inRole role (.started .cold)

def reply : Reply := (ReplyBody.grant ⟨2, 5, .run, 600, ⟨0, true⟩⟩).sealed 0xFFFFFFFF

theorem test_hypotheses_SetLineChangesSettings :
    granted (.setLine 4 1 4 0 1 0) shop ∧ lineOfIndex 4 = none ∧ granted (.setLine 3 3 4 0 1 0) shop ∧
    settingsOf 3 4 0 1 0 = none ∧ granted (.setLine 3 2 5 2 2 1) shop ∧ lineOfIndex 3 = some .line3 ∧
    settingsOf 2 5 2 2 1 = some ⟨.agent, .r19200, .odd, .two, .full⟩ ∧
    ((onLine .line0 { lineOf .kit with inFlight := [.settings .cold] }).lines.get .line0).inFlight = [.settings .cold] ∧
    (lineOf .kit).settings ≠ .cold ∧ (lineOf .off).settings = .cold := by decide +kernel

theorem test_hypotheses_ReadLineReports :
    granted (.readLine 4) shop ∧ granted (.readLine 0) shop ∧ lineOfIndex 0 = some .line0 ∧
    (onLine .line0 { lineOf .kit with inFlight := [.read] }).takesResponse = true ∧
    (stopping (onLine .line0 { lineOf .kit with inFlight := [.read] })).takesResponse = false ∧
    ((onLine .line0 { lineOf .kit with inFlight := [.read] }).lines.get .line0).inFlight = [.read] := by decide +kernel

/-- A line to which a delivery is on its way. -/
def delivering (d : Delivery) (take : TakeMarker) : State :=
  { onLine .line2 { lineOf .kit with take := take, inFlight := [.delivery d] } with hold := some (.message .line2) }

theorem test_hypotheses_LineDeliveryArrives :
    ((delivering (.reply reply) .current).lines.get .line2).inFlight = [.delivery (.reply reply)] ∧
    (delivering (.reply reply) .current).takesResponse = true ∧
    ((delivering (.mark (.agent 65)) .current).lines.get .line2).take = .current ∧
    ((delivering (.reply reply) .stale).lines.get .line2).take ≠ .current ∧
    (stopping (delivering (.reply reply) .current)).takesResponse = false := by decide +kernel

theorem test_hypotheses_CharactersAreTaken :
    shop.supply.state = .running ∧ (shop.lines.get .line0).settings.role = .off ∧ (stopping shop).supply.state ≠ .running ∧
    (lineOf .kit).settings.role ≠ .off ∧ (lineOf .kit).settings.duplex = .half ∧ (lineOf .kit).transmitter = .idle ∧
    (lineOf .kit).settings.parity = .none ∧ (lineOf .kit).settings.rate.bitUnits = 8 ∧
    ((lineOf .kit).advance 76).looking = 76 ∧ ((lineOf .kit).advance 75).looking = 75 ∧
    ({ lineOf .kit with assembler := .length, silence := 325 } : Line).advance 76 =
      { lineOf .kit with assembler := .length, silence := 401, looking := 76 } := by decide +kernel

theorem test_character_of_an_unseen_start_bit_is_not_taken :
    ((after (.receiveCharacter .line0 75 0xA5 false true) (onLine .line0 (lineOf .kit))).lines.get .line0) =
      (lineOf .kit).advance 75 ∧
    ((after (.receiveCharacter .line0 76 0xA5 false true) (onLine .line0 (lineOf .kit))).lines.get .line0).assembler = .length :=
  by decide +kernel

/-- A start bit that falls in the second half of the stop bit before it, here right at its middle, is found (R163). -/
theorem test_start_bit_in_the_stop_bit_before :
    let s := after (.receiveCharacter .line0 76 0xA5 false true) (onLine .line0 (lineOf .kit))
    ((after (.receiveCharacter .line0 76 16 false true) s).lines.get .line0).assembler = .body 16 [] ∧
    ((after (.receiveCharacter .line0 75 16 false true) s).lines.get .line0).assembler = .length := by decide +kernel

theorem test_parity_is_checked :
    let l : Line := { lineOf .kit with settings := ⟨.kit, .r9600, .even, .one, .half⟩ }
    ((after (.receiveCharacter .line0 100 0xA5 false true) (onLine .line0 l)).lines.get .line0).assembler = .length ∧
    ((after (.receiveCharacter .line0 100 0xA5 true true) (onLine .line0 l)).lines.get .line0).flags.parity = true := by
  decide +kernel

/-- Takes characters one by one, a good bit each and no pause. -/
def hear (s : State) (bytes : List Byte) : State :=
  bytes.foldl (fun s b => after (.receiveCharacter .line0 80 b false true) s) s

theorem test_checkIn_characters_make_a_message :
    ((hear (onLine .line0 (lineOf .kit)) (checkIn 2 5 3 true).bytes).lines.get .line0).inbound =
      [.checkIn (checkIn 2 5 3 true)] := by decide +kernel

theorem test_hypotheses_LineTimersAct :
    shop.supply.state = .running ∧
    ((onLine .line1 { lineOf .kit with assembler := .length, silence := 324 }).lines.get .line1).assembler = .length ∧
    (({ lineOf .kit with assembler := .length, silence := 324 } : Line).advance 1).silence = 325 ∧
    (({ lineOf .kit with assembler := .length, silence := 324 } : Line).advance 1).listening = true ∧
    (({ lineOf .kit with outbound := [reply], quiet := 159 } : Line).advance 1).quiet = 160 ∧
    (({ lineOf .kit with outbound := [reply], quiet := 159 } : Line).advance 0).quiet = 159 ∧
    (({ lineOf .kit with transmitter := .sending reply 1519 } : Line).advance 1).transmitter = .sending reply 1520 ∧
    reply.bytes.length * 80 = 1520 := by decide +kernel

/-- A start bit under way holds off the silence limit and a HALF duplex reply (R167, R170). -/
theorem test_start_bit_under_way_counts :
    let l : Line := { lineOf .kit with assembler := .length, silence := 364, looking := 364 }
    let m : Line := { lineOf .kit with outbound := [reply], quiet := 160, looking := 160 }
    ((after (.gapTimeout .line1 ⟨0, some 40⟩) (onLine .line1 l)).lines.get .line1).flags.gap = false ∧
    ((after (.gapTimeout .line1 ⟨0, some 39⟩) (onLine .line1 l)).lines.get .line1).flags.gap = true ∧
    ((after (.gapTimeout .line1 ⟨0, some 365⟩) (onLine .line1 l)).lines.get .line1).flags.gap = true ∧
    ((after (.replyBegin .line1 ⟨0, some 159⟩) (onLine .line1 m)).lines.get .line1).transmitter = .idle ∧
    ((after (.replyBegin .line1 ⟨0, none⟩) (onLine .line1 m)).lines.get .line1).transmitter = .sending reply 0 := by
  decide +kernel

/-- The quiet time that ran in HUNT from the marker's start bit stays counted outside HUNT and runs on after the silence limit;
the start bit of a second character lets it begin anew (R170). -/
theorem test_quiet_time_stands_outside_hunt :
    let line := fun (s : State) => s.lines.get .line0
    let s := hear (onLine .line0 { lineOf .kit with outbound := [reply] }) [lineMarker]
    let t := after (.gapTimeout .line0 ⟨334, none⟩) s
    (line s).quiet = 76 ∧ (line t).quiet = 86 ∧ (line (after (.gapTimeout .line0 ⟨334, some 5⟩) s)).quiet = 5 ∧
    (line (after (.replyBegin .line0 ⟨73, none⟩) t)).transmitter = .idle ∧
    (line (after (.replyBegin .line0 ⟨74, none⟩) t)).transmitter = .sending reply 0 ∧
    (line (after (.gapTimeout .line0 ⟨50, some 5⟩) s)).quiet = 0 ∧ (line (hear s [16])).quiet = 0 := by decide +kernel

/-- The first character of a reply, A5h, bit by bit, and the last level before its second. -/
theorem test_output_sends_bits :
    reply.bytes[0]? = some 0xA5 ∧ (lineOf .kit).settings.charBits = 10 ∧
    [0, 7, 8, 15, 16, 24, 64, 72, 79, 80].map (fun t => ({ lineOf .kit with transmitter := .sending reply t } : Line).output true) =
      [.zero, .zero, .one, .one, .zero, .one, .one, .one, .one, .zero] ∧
    (lineOf .kit).output true = .one ∧ (lineOf .kit).output false = .highImpedance ∧
    (lineOf .off).output true = .highImpedance := by decide +kernel

/-! ## The attention output and the port -/

theorem test_hypotheses_AttentionIsMaskedAndRead :
    granted (.setAttentionMask 128) shop ∧ granted (.setAttentionMask 127) shop ∧ granted .readAttention shop ∧
    (holdingFor (.maskWrite .all) shop).takesResponse = true ∧
    (stopping (holdingFor (.maskWrite .all) shop)).takesResponse = false := by decide +kernel

/-- The shop in a supply state, with one cause enabled. -/
def enabling (supply : SupplyState) (mask : Causes) (s : State) : State :=
  { s with mask := mask, supply := { s.supply with state := supply } }

/-- The attention line with one cause enabled, in each supply state (R182). -/
theorem test_hypotheses_AttentionIsMaskedAndRead_line :
    let none : Causes := ⟨false, false, false, false, false, false, false⟩
    let ready : State := { shop with port := { shop.port with state := .ready } }
    let faulty := onLine .line3 { lineOf .off with flags := { LineFlags.clear with messageOverrun := true } }
    let low : State := { shop with supply := { shop.supply with backupLow := true } }
    let short := fun n : Nat => { shop with engine := { shop.engine with poolFree := n } }
    let line := fun supply mask s => (enabling supply mask s).attention
    [SupplyState.running, .starting, .stopping, .retaining, .unpowered].map (fun x =>
      line x { none with responseReady := true } ready) = [true, true, false, false, false] ∧
    line .running { none with responseReady := true } shop = false ∧ line .running none low = false ∧
    line .running { none with noticesWaiting := true } shop = true ∧ line .running { none with lineFault := true } faulty = true ∧
    line .running { none with lineFault := true } shop = false ∧ line .starting { none with agentWatermark := true } shop = true ∧
    line .running { none with poolLow := true } (short 63) = true ∧
    line .running { none with poolLow := true } (short 64) = false ∧ line .running { none with timeUnset := true } unset = true ∧
    line .running { none with timeUnset := true } shop = false ∧ line .running { none with backupLow := true } low = true := by
  decide +kernel

/-- The bits of a READ TIME frame. -/
def readTimeBits : List Bool := spellBits Request.readTime.frame.wire

def starting (s : State) : State := { s with supply := { s.supply with state := .starting } }

def powerless (state : SupplyState) (mark : Bool) : State :=
  { shop with supply := { shop.supply with state := state, mark := mark } }

theorem test_hypotheses_RequestFramesAreJudged :
    readTimeBits ≠ [] ∧ (packBytes readTimeBits).head? ≠ some 0x5A ∧ completeFrame readTimeBits = some Request.readTime.frame ∧
    completeFrame [true] = none ∧ (packBytes [true]).head? ≠ some 0x5A ∧ shop.port.state = .idle ∧
    shop.supply.state = .running ∧ (starting shop).supply.state = .starting ∧ (asking .readTime shop).port.state ≠ .idle ∧
    (stopping shop).supply.state = .stopping ∧ shop.port.earlier.length < 1 ∧
    State.reset.port.earlier[0]? = some ⟨.starting, .idle, false, false⟩ ∧
    (packBytes (spellBits [0x5A] ++ [true, false])).head? = some 0x5A := by decide +kernel

/-- A request frame whose select fell in STARTING shows STARTING and is accepted in RUNNING (R176, R178, R181). -/
theorem test_frame_across_the_end_of_the_start :
    (after (.requestFrame ⟨1, readTimeBits⟩) State.reset).port.dataOut =
      [false, true] ++ List.replicate 6 false ++ List.replicate 24 true ∧
    (after (.requestFrame ⟨1, readTimeBits⟩) State.reset).port.request = some Request.readTime.frame ∧
    (after (.requestFrame ⟨0, readTimeBits⟩) State.reset).port.dataOut =
      [true, false] ++ List.replicate 6 false ++ List.replicate 24 true ∧
    (after (.requestFrame ⟨2, readTimeBits⟩) State.reset).port = { State.reset.port with earlier := [] } := by decide +kernel

/-- The port has a response of ten bytes. -/
def answering : State :=
  { shop with port := { shop.port with state := .ready, response := some ⟨0x20, .unknownKit, [wordField 7]⟩ } }

theorem test_hypotheses_ReadFramesShiftResponse :
    answering.port.state = .ready ∧ answering.port.response = some ⟨0x20, .unknownKit, [wordField 7]⟩ ∧
    (spellBits (Response.bytes ⟨0x20, .unknownKit, [wordField 7]⟩)).length = 72 ∧ shop.port.state ≠ .ready ∧
    (stopping shop).supply.state = .stopping ∧ (powerless .retaining true).supply.state = .retaining ∧
    (after .readTime (asking .readTime shop)).port.earlier[0]? = some ⟨.running, .busy, false, false⟩ ∧
    (after .readTime (asking .readTime shop)).port.state = .ready := by decide +kernel

theorem test_whole_read_empties_the_port :
    (after (.readFrame ⟨0, 71⟩) answering).port.state = .ready ∧ (after (.readFrame ⟨0, 71⟩) answering).port.torn = true ∧
    (after (.readFrame ⟨0, 72⟩) answering).port.state = .idle ∧
    (after (.requestFrame ⟨0, spellBits [0x5A] ++ List.replicate 71 false⟩) answering).port.state = .ready ∧
    (after (.requestFrame ⟨0, spellBits [0x5A] ++ List.replicate 72 false⟩) answering).port.state = .idle := by decide +kernel

/-- Data out in the first frame after the response came: released, status byte, response, ones (R175, R179, R181). -/
theorem test_hypotheses_ReadFramesShiftResponse_levels :
    let x : Status := ⟨.running, .ready, false, true⟩
    (answering.dataOutLevel .high = .highImpedance ∧
      (powerless .retaining true).dataOutLevel (.low x true 0) = .highImpedance ∧
      (powerless .unpowered true).dataOutLevel (.low x true 0) = .highImpedance) ∧
    [0, 1, 2, 6, 7, 8, 10, 79, 80].map (fun clock => answering.dataOutLevel (.low x true clock)) =
      [.one, .zero, .one, .zero, .one, .zero, .one,
        Level.ofBit ((spellBits (Response.bytes ⟨0x20, .unknownKit, [wordField 7]⟩)).getD 71 true), .one] ∧
    [8, 9].map (fun clock => answering.dataOutLevel (.low x false clock)) = [.one, .one] ∧
    answering.dataOutLevel (.low { x with port := .busy } true 8) = .one ∧
    [0, 1, 2, 8].map (fun clock => (stopping shop).dataOutLevel (.low ⟨.stopping, .idle, false, false⟩ true clock)) =
      [.one, .one, .zero, .one] := by decide +kernel

/-- A READ frame whose select fell in BUSY leaves a response that came since for the next one (R180). -/
theorem test_read_across_a_delivery :
    (after (.readFrame ⟨1, 400⟩) (after .readTime (asking .readTime shop))).port.dataOut.take 8 =
      [true, false, false, true, false, false, false, false] ∧
    (after (.readFrame ⟨1, 400⟩) (after .readTime (asking .readTime shop))).port.state = .ready ∧
    (after (.readFrame ⟨0, 400⟩) (after .readTime (asking .readTime shop))).port.state = .idle := by decide +kernel

/-! ## Line messages -/

theorem test_hypotheses_CheckInIsAnswered :
    heard (.checkIn (checkIn 7 5 0 true)) shop ∧ shop.engine.directory.get 7 = none ∧
    heard (.checkIn (checkIn 1 5 0 false)) shop ∧ finds shop 1 ∧ (workIn shop 1).record.badChecks = 7 ∧
    keyedCheck (workIn shop 1).record.key (checkIn 1 5 0 false).covered ≠ (checkIn 1 5 0 false).check ∧
    heard (.checkIn (checkIn 2 5 3 true)) shop ∧ finds shop 2 ∧
    keyedCheck (workIn shop 2).record.key (checkIn 2 5 3 true).covered = (checkIn 2 5 3 true).check ∧
    heard (.checkIn (checkIn 2 6 0 true)) shop ∧ heard (.checkIn (checkIn 2 4 0 true)) shop ∧
    heard (.checkIn (checkIn 2 5 0 true)) unset ∧ finds unset 2 := by decide +kernel

/-- A record whose set was empty joins the notice list with TAMPER or GRANT MISMATCH, and else the list stands (R114). -/
theorem test_checkIn_and_the_notice_list :
    (nowIn shop 2).record.notices = .clear ∧ (after .checkIn (hearing (.checkIn (checkIn 2 5 1 true)) shop)).engine.notices = [5, 2] ∧
    (after .checkIn (hearing (.checkIn (checkIn 2 6 0 true)) shop)).engine.notices = [5, 2] ∧
    (after .checkIn (hearing (.checkIn (checkIn 2 5 2 true)) shop)).engine.notices = [5] ∧
    (after .checkIn (hearing (.checkIn (checkIn 5 6 1 true)) shop)).engine.notices = [5] := by decide +kernel

theorem test_hypotheses_OffersFollowTheRecord :
    planA.lease = 1440 ∧ (nowIn shop 2).record.state = .active ∧ (nowIn shop 2).record.offer = ⟨5, some .run, some 15000⟩ ∧
    (nowIn shop 1).record.offer.kind = none ∧ (nowIn shop 4).record.state = .owned ∧
    (nowIn shop 3).record.state = .suspended := by decide +kernel

theorem test_topUp_results :
    answer .topUp (.topUp (topUp 2 2 10 1 true)) shop = some .agentBarred ∧
    answer .topUp (.topUp (topUp 1 0 10 1 true)) shop = some .badField ∧
    answer .topUp (.topUp (topUp 1 2 10 0 true)) shop = some .badField ∧
    answer .topUp (.topUp (topUp 1 7 10 1 true)) shop = some .unknownKit ∧
    answer .topUp (.topUp (topUp 1 2 10 1 true)) unset = some .timeUnset ∧
    answer .topUp (.topUp (topUp 1 5 10 101 true)) shop = some .duplicateReference ∧
    answer .topUp (.topUp (topUp 1 4 10 1 true)) shop = some .wrongState ∧
    answer .topUp (.topUp (topUp 1 2 9 1 true)) shop = some .belowMinimum := by decide +kernel

/-- The shop with an empty pool. -/
def poolless : State := { shop with engine := { shop.engine with poolFree := 0 } }

theorem test_topUp_results_of_the_pool_and_the_agent :
    answer .topUp (.topUp (topUp 64 4294967294 10 5 true)) shop = some .pendingFull ∧
    answer .topUp (.topUp (topUp 1 2 10 1 true)) poolless = some .poolFull ∧
    answer .topUp (.topUp (topUp 1 6 1441 1 true)) shop = some .capExceeded ∧
    answer .topUp (.topUp (topUp 1 2 51 1 true)) shop = some .floatExceeded ∧
    answer .topUp (.topUp (topUp 1 2 50 4294967295 true)) shop = some .done := by decide +kernel

theorem test_hypotheses_TopUpRefuses :
    heard (.topUp (topUp 65 2 10 1 true)) shop ∧ heard (.topUp (topUp 1 2 10 1 false)) shop ∧
    (shop.engine.agents.get 1).isSome = true ∧ heard (.topUp (topUp 64 5 10 101 true)) shop ∧
    findEntry 101 (nowIn shop 5).record.pending = some (entry 101 2 60 14460) ∧
    heard (.topUp (topUp 1 2 51 1 true)) shop ∧ findEntry 1 (nowIn shop 2).record.pending = none ∧ finds shop 2 ∧
    convert planA 51 0 ((nowIn shop 2).record.base 14400) 14400 = some ⟨51, 51, 0, 0⟩ ∧
    ((nowIn shop 2).engine.agents.get 1).map Agent.outstanding = some 50 ∧
    heard (.topUp (topUp 64 4294967294 10 1 true)) shop ∧
    (findEntry 1 (nowIn shop 4294967294).record.pending).map Entry.agent = some 64 := by decide +kernel

theorem test_hypotheses_TopUpMakesEntry :
    heard (.topUp (topUp 1 2 50 4294967295 true)) shop ∧
    shop.engine.agents.get 1 = some ⟨false, 0xFFFFFFFF, 100, 50, 0, 0, .reverse, 1, false⟩ ∧
    keyedCheck 0xFFFFFFFF (topUp 1 2 50 4294967295 true).covered = (topUp 1 2 50 4294967295 true).check ∧ finds shop 2 ∧
    shop.calendar.state = .known ∧ findEntry 4294967295 (nowIn shop 2).record.pending = none ∧
    (nowIn shop 2).record.state ≠ .owned ∧ (nowIn shop 2).plan = planA ∧ planA.minimum ≤ 50 ∧
    (nowIn shop 2).record.pending.length < 4 ∧ 0 < (nowIn shop 2).engine.poolFree ∧
    (nowIn shop 2).record.paid = some 15000 ∧ convert planA 50 0 15000 14400 = some ⟨50, 50, 0, 0⟩ ∧
    (nowIn shop 2).engine.agents.get 1 = some ⟨false, 0xFFFFFFFF, 100, 50, 0, 0, .reverse, 1, false⟩ := by decide +kernel

theorem test_topUp_reminds_within_the_lead :
    ((after .topUp (hearing (.topUp (topUp 1 1 50 9 true)) shop)).engine.accounts.get 0).map (fun r =>
      (r.paid, r.reminded, r.notices.remind)) = some (some 14450, true, true) ∧
    (after .topUp (hearing (.topUp (topUp 1 1 50 9 true)) shop)).engine.notices = [5, 1] := by decide +kernel

theorem test_hypotheses_StatusIsAnswered :
    heard (.status (statusOf 65 2 true)) shop ∧ heard (.status (statusOf 1 2 false)) shop ∧
    heard (.status (statusOf 2 4294967295 true)) shop ∧ (shop.engine.agents.get 2).isSome = true ∧
    keyedCheck 0xFFFFFFFF (statusOf 2 4294967295 true).covered = (statusOf 2 4294967295 true).check ∧
    heard (.status (statusOf 2 7 true)) shop ∧ shop.engine.directory.get 7 = none ∧
    heard (.status (statusOf 2 5 true)) shop ∧ finds shop 5 ∧
    answer .status (.status (statusOf 2 4294967295 true)) shop = some .badField ∧
    answer .status (.status (statusOf 2 5 true)) shop = some .done := by decide +kernel

/-! ## Bringing current, passes, supply -/

theorem test_hypotheses_BringingCurrentAgrees :
    ((workIn shop 5).record.pending.map Entry.reference).Nodup ∧ (∃ en ∈ (workIn shop 5).record.pending, en.deadline ≤ 14400) ∧
    (nowIn shop 5).record.state ≠ .suspended ∧ (nowIn shop 5).record.state ≠ .owned ∧
    (∀ en ∈ (workIn shop 4294967294).record.pending, 14400 < en.deadline) ∧
    (∀ en ∈ (workIn shop 6).record.pending, 14400 < en.deadline) ∧ (nowIn shop 6).record.notices.lapsed = true := by
  decide +kernel

/-- A record whose credit had run out before a backward step of the calendar. -/
def returning (state : RecordState) (paid : Nat) : State := withRecord 1 { active with state := state, paid := some paid, due := none }

/-- A return to ACTIVE within the lead, no reminder raised, raises REMIND and keys LAPSE (R36, R104; log entry 34). -/
theorem test_return_within_the_lead_reminds :
    (nowIn (returning .lapsed 14520) 2).record =
      { active with
        paid := some 14520, reminded := true, notices := { NoticeFlags.clear with remind := true }
        due := some (.lapse, 14520) } ∧
    (nowIn (returning .defaulted 14520) 2).record = (nowIn (returning .lapsed 14520) 2).record ∧
    ((nowIn (returning .lapsed 14520) 2).current 14400).record = (nowIn (returning .lapsed 14520) 2).record := by
  decide +kernel

/-- A return beyond the lead, with the reminder raised already, or to LAPSED raises no notice (R112). -/
theorem test_other_returns_raise_no_notice :
    (nowIn (returning .lapsed 14521) 2).record = { active with paid := some 14521, due := some (.remind, 14401) } ∧
    (nowIn (withRecord 1 { active with state := .lapsed, paid := some 14520, reminded := true, due := none }) 2).record =
      { active with paid := some 14520, reminded := true, due := some (.lapse, 14520) } ∧
    (nowIn (returning .defaulted 14400) 2).record =
      { active with state := .lapsed, paid := some 14400, due := some (.default, 57600) } := by decide +kernel

/-- Entries that are due at 14400, under an agent that confirms and one that reverses, on records of each kind. -/
def confirming : State := withRecord 4 { holding with pending := [entry 7 1 5 14400, entry 101 2 60 14399, entry 100 1 50 14399] }
def completing : State := withRecord 1 { active with pending := [entry 8 3 960 14400] }
def confirmingOwned : State := withRecord 3 { owned with pending := [entry 8 3 960 14400] }
def reversingOwned : State := withRecord 3 { owned with pending := [entry 8 1 50 14400] }

theorem test_hypotheses_BringingCurrentAgrees_first_due :
    (workIn shop 5).record.pending = [] ++ entry 100 1 50 14399 :: [entry 101 2 60 14460] ∧
    (shop.engine.agents.get 1).map Agent.policy = some .reverse ∧ (workIn shop 5).record.state ≠ .owned ∧
    (workIn confirming 5).record.pending = [entry 7 1 5 14400] ++ entry 101 2 60 14399 :: [entry 100 1 50 14399] ∧
    ((workIn confirming 5).record.pending.map Entry.reference).Nodup ∧
    (shop.engine.agents.get 2).map Agent.policy = some .confirm ∧ (workIn confirming 5).plan.price = 0 ∧
    (workIn completing 2).record.pending = [] ++ entry 8 3 960 14400 :: [] ∧
    (shop.engine.agents.get 3).map Agent.policy = some .confirm ∧
    (workIn completing 2).plan.price ≤ (workIn completing 2).record.confirmed + 960 ∧
    (workIn confirmingOwned 4).record.state = .owned ∧ (workIn reversingOwned 4).record.state = .owned := by decide +kernel

theorem test_entries_settle_under_their_policy :
    (nowIn shop 5).engine.agents.get 1 = some ⟨false, 0xFFFFFFFF, 100, 0, 0, 50, .reverse, 1, false⟩ ∧
    (nowIn shop 5).record.paid = some 14950 ∧ (nowIn confirming 5).record.confirmed = 60 ∧
    (nowIn confirming 5).record.paid = some 14945 ∧ (nowIn completing 2).record.state = .owned ∧
    (nowIn completing 2).record.notices = { NoticeFlags.clear with owned := true, timedSettlement := true } ∧
    (nowIn confirmingOwned 4).record = { owned with notices := { NoticeFlags.clear with timedSettlement := true } } := by
  decide +kernel

def settling : State := { shop with pointer := .settlementPass }

def restarting : State := { shop with supply := { shop.supply with resetWaiting := true } }

theorem test_hypotheses_PassesBringHeadCurrent :
    shop.grant = some .expiryPass ∧ shop.engine.expiry.head? = some ⟨14400, 6, 5, .lapse⟩ ∧ finds shop 6 ∧
    settling.grant = some .settlementPass ∧ settling.engine.settlement.head? = some ⟨14399, 5, 100⟩ ∧ finds settling 5 ∧
    shop.supply.state = .running ∧ shop.supply.resetWaiting = false ∧ shop.hold = none ∧ shop.pointer = .port ∧
    restarting.grant = none := by decide +kernel

/-- From its own place the pointer goes round: the last pass first, then the port before the lines (R29). -/
theorem test_grants_go_round :
    ({ asking .readTime shop with pointer := .settlementPass } : State).grant = some .settlementPass ∧
    ({ asking .readTime unset with pointer := .settlementPass } : State).grant = some .port ∧
    ({ hearing (.checkIn (checkIn 2 5 3 true)) unset with pointer := .expiryPass } : State).grant = some (.line .line3) ∧
    ({ asking .readTime shop with pointer := .line .line0 } : State).grant = some .expiryPass := by decide +kernel

theorem test_hypotheses_StartsAreColdOrWarm :
    (powerless .unpowered false).supply.state = .unpowered ∧ (powerless .unpowered false).supply.mark = false ∧
    (powerless .retaining false).supply.mark = false ∧ (powerless .retaining true).supply.state = .retaining ∧
    (powerless .retaining true).supply.mark = true ∧ shop.supply.state ≠ .retaining ∧ shop.supply.state ≠ .unpowered ∧
    shop.supply.state ≠ .starting ∧ (starting answering).supply.state = .starting := by decide

theorem test_start_keeps_what_starting_left_at_the_port :
    (after .startComplete (starting answering)).port =
      { answering.port with earlier := [⟨.starting, .ready, false, false⟩] } ∧
    (after (.mainSupplyGoodRise true true) (powerless .unpowered false)).supply = ⟨.stopping, false, true, false⟩ := by
  decide +kernel

theorem test_hypotheses_SupplyLossStopsAndRetains :
    shop.supply.state = .running ∧ (starting shop).supply.state = .starting ∧ (stopping shop).supply.state = .stopping ∧
    (holdingFor .align shop).hold.isSome = true ∧ shop.hold = none ∧ (powerless .retaining true).supply.state ≠ .running ∧
    (asking (.pay 5 100) shop).grant = some .port ∧ unset.hold = none ∧ unset.grant = none := by decide +kernel

/-- The retention mark after a fall of main supply with no warning, which comes inside a PAY, a pass, a held ALIGN MINUTE, or
with the engine idle; and what follows when main supply rises again (R186, R187). -/
theorem test_unwarned_fall_and_the_mark :
    let fallen := fun taken s => after (.mainSupplyGoodFall ⟨true, taken⟩) s
    (fallen true (asking (.pay 5 100) shop)).supply = ⟨.retaining, false, false, false⟩ ∧
    (fallen false (asking (.pay 5 100) shop)).supply = ⟨.retaining, true, false, false⟩ ∧
    (fallen true shop).supply.mark = false ∧ (fallen false (holdingFor .align shop)).supply.mark = false ∧
    (fallen true (after .resetAssert (asking (.pay 5 100) shop))).supply.mark = false ∧
    (fallen false (after .resetAssert (asking (.pay 5 100) shop))).supply.mark = true ∧
    (fallen true unset).supply.mark = true ∧ (fallen true (stopping (asking (.pay 5 100) shop))).supply.mark = true ∧
    (after (.mainSupplyGoodRise false false) (fallen true (asking (.pay 5 100) shop))).engine = .cold ∧
    (after (.mainSupplyGoodRise false false) (fallen false (asking (.pay 5 100) shop))).engine = shopEngine := by
  decide +kernel

theorem test_hypotheses_BackupCellIsWatched :
    (powerless .retaining true).supply.state = .retaining ∧ shop.supply.state ≠ .retaining ∧
    shop.supply.state ≠ .unpowered ∧ (powerless .unpowered false).supply.state = .unpowered := by decide

theorem test_hypotheses_ResetInputRestarts :
    shop.supply.state = .running ∧ restarting.supply.resetWaiting = true ∧ restarting.hold = none ∧
    (holdingFor .align restarting).hold.isSome = true ∧ shop.supply.resetWaiting = false := by decide

/-! ## Invariants: the shop has them all, and its commands leave a next state -/

theorem test_hypotheses_table_invariants :
    shop.engine.plansWf ∧ shop.engine.ownersWf ∧ shop.engine.recordsWf ∧ shop.engine.expiryWf ∧ shop.engine.noticesWf ∧
    shop.engine.moneyWf :=
  ⟨by decide +kernel, by decide +kernel, by decide +kernel, by decide +kernel, by decide +kernel, by decide +kernel⟩

theorem test_hypotheses_part_invariants :
    (asking (.pay 5 100) shop).portWf ∧ (delivering (.reply reply) .current).linesWf ∧ shop.calendarWf ∧
    (hearing (.checkIn (checkIn 2 5 3 true)) shop).linesWf ∧ (holdingFor .align shop).calendarWf ∧
    (holdingFor .align shop).portWf ∧ (asking (.pay 5 100) shop).linesWf ∧ (delivering (.reply reply) .current).portWf :=
  ⟨by decide +kernel, by decide +kernel, by decide +kernel, by decide +kernel, by decide +kernel, by decide +kernel,
    by decide +kernel, by decide +kernel⟩

theorem test_hypotheses_invariants_step :
    exec .expiryPass shop = .next (after .expiryPass shop) ∧
    exec .checkIn (hearing (.checkIn (checkIn 2 5 3 true)) shop) =
      .next (after .checkIn (hearing (.checkIn (checkIn 2 5 3 true)) shop)) ∧
    exec .alignCommand (holdingFor .align shop) = .next (after .alignCommand (holdingFor .align shop)) ∧
    exec (.lineDelivery .line2) (delivering (.reply reply) .current) =
      .next (after (.lineDelivery .line2) (delivering (.reply reply) .current)) :=
  ⟨exec_eq_after (by decide +kernel), exec_eq_after (by decide +kernel), exec_eq_after (by decide +kernel),
    exec_eq_after (by decide +kernel)⟩

theorem test_hypotheses_RecordsNeverGoBack :
    shop.engine.accounts.get 1 = some active ∧
    ((after .pay (asking (.pay 2 10) shop)).engine.accounts.get 1).map Record.paid = some (some 15010) ∧
    runs .pay (asking (.pay 2 10) shop) = true := by decide +kernel

end Sys2Proof.Tests
end

/-! # Tables: entries, reads and counts -/

namespace Sys2Proof.Machine

/-! ## Tables in canonical form: entries and reads -/

section
variable {α : Type}

theorem Table.mem_iff_get {t : Table α} (hw : Table.wf t) {k : Nat} {v : α} : (k, v) ∈ t ↔ t.get k = some v :=
  ⟨fun h => Table.get_of_mem hw h, Table.mem_of_get⟩

/-- What holds of every entry holds of every read, and the other way round. -/
theorem Table.forall_mem_iff {t : Table α} (hw : Table.wf t) {P : Nat × α → Prop} :
    (∀ e ∈ t, P e) ↔ ∀ k v, t.get k = some v → P (k, v) := by
  simp only [Prod.forall, Table.mem_iff_get hw]

/-- A write into a free place adds the new entry to those that are counted. -/
theorem Table.countP_put_of_free {q : Nat × α → Bool} {k : Nat} {v : α} {t : Table α} (h : t.get k = none) :
    (t.put k v).countP q = t.countP q + if q (k, v) then 1 else 0 := by
  induction t with
  | nil => simp [Table.put, List.countP_cons]
  | cons e rest ih =>
    obtain ⟨j, u⟩ := e
    by_cases hjk : j = k
    · simp [Table.get, hjk] at h
    · have h' : Table.get k rest = none := by simpa [Table.get, hjk] using h
      by_cases hlt : k < j
      · simp [Table.put, hjk, hlt, List.countP_cons]
      · simp only [Table.put, hjk, hlt, if_false, List.countP_cons, ih h']
        omega

/-- A removal takes the removed entry out of those that are counted. -/
theorem Table.countP_erase_of_get {q : Nat × α → Bool} {k : Nat} {v : α} {t : Table α} (hw : Table.wf t)
    (h : t.get k = some v) : t.countP q = (t.erase k).countP q + if q (k, v) then 1 else 0 := by
  induction t with
  | nil => cases h
  | cons e rest ih =>
    obtain ⟨j, u⟩ := e
    obtain ⟨hj, hr⟩ := List.pairwise_cons.mp hw
    by_cases hjk : j = k
    · subst hjk
      have hu : u = v := by simpa [Table.get] using h
      have hrest : Table.erase j rest = rest :=
        List.filter_eq_self.2 fun e he => by simpa using Nat.ne_of_gt (hj e he)
      simp only [Table.erase, List.filter_cons, beq_self_eq_true, Bool.not_true, Bool.false_eq_true, if_false,
        List.countP_cons, hu] at hrest ⊢
      rw [hrest]
    · have h' : Table.get k rest = some v := by simpa [Table.get, hjk] using h
      have := ih hr h'
      simp only [Table.erase, List.filter_cons, beq_eq_false_iff_ne.2 hjk, Bool.not_false, if_true,
        List.countP_cons] at this ⊢
      omega

/-- A write over an entry exchanges it among those that are counted. -/
theorem Table.countP_put_of_get {q : Nat × α → Bool} {k : Nat} {v v' : α} {t : Table α} (hw : Table.wf t)
    (h : t.get k = some v) :
    (t.put k v').countP q + (if q (k, v) then 1 else 0) = t.countP q + if q (k, v') then 1 else 0 := by
  induction t with
  | nil => cases h
  | cons e rest ih =>
    obtain ⟨j, u⟩ := e
    obtain ⟨hj, hr⟩ := List.pairwise_cons.mp hw
    by_cases hjk : j = k
    · subst hjk
      have hu : u = v := by simpa [Table.get] using h
      simp only [Table.put, if_true, List.countP_cons, hu]
      omega
    · have h' : Table.get k rest = some v := by simpa [Table.get, hjk] using h
      have hlt : ¬k < j := Nat.not_lt.2 (Nat.le_of_lt (hj _ (Table.mem_of_get h')))
      have := ih hr h'
      simp only [Table.put, hjk, hlt, if_false, List.countP_cons]
      omega

end

end Sys2Proof.Machine

/-! # Work on a record -/

namespace Sys2Proof.Machine

/-! ## What work on a record makes of it

The relations below say what every piece of work on a record keeps, so that each invariant of the records is one
consequence of them: the kit and the plan stay, the grant numbers, energy, paid-through and ownership do not go back
(R5, R8, R10, R124, R130), and a sound record stays sound (R4, R7, R10). -/

/-- The clause of R10 for one record and its plan: OWNED exactly while the confirmed total equals a price above 0, which it
never exceeds. -/
def Record.owns (r : Record) (p : Plan) : Prop :=
  (0 < p.price → r.confirmed ≤ p.price) ∧ (r.state = .owned ↔ 0 < p.price ∧ r.confirmed = p.price)

/-- The part of `Record.wf` that speaks of state, suspend reason and paid-through (R4, R5, R7). -/
def Record.creditWf (r : Record) : Prop :=
  (r.reason.isSome = true ↔ r.state = .suspended) ∧ (r.state = .enrolled → r.paid = none) ∧
  (r.state = .active ∨ r.state = .lapsed ∨ r.state = .defaulted → r.paid.isSome = true)

/-- What a record under plan `p` can become by work on it. -/
structure Record.Evolves (p : Plan) (r r' : Record) : Prop where
  kit     : r'.kit = r.kit
  plan    : r'.plan = r.plan
  offered : r.offer.number ≤ r'.offer.number
  acked   : r.wf → r.acked ≤ r'.acked
  energy  : r.wf → r.energy ≤ r'.energy
  paid    : r.paid.isSome = true → r'.paid.isSome = true
  owned   : r.state = .owned → r'.state = .owned
  wf      : r.wf → r'.wf
  owns    : r.owns p → r'.owns p

theorem Record.Evolves.refl (p : Plan) (r : Record) : r.Evolves p r :=
  ⟨rfl, rfl, le_refl _, fun _ => le_refl _, fun _ => le_refl _, id, id, id, id⟩

theorem Record.Evolves.trans {p : Plan} {a b c : Record} (h : a.Evolves p b) (g : b.Evolves p c) : a.Evolves p c where
  kit := g.kit.trans h.kit
  plan := g.plan.trans h.plan
  offered := h.offered.trans g.offered
  acked := fun hw => (h.acked hw).trans (g.acked (h.wf hw))
  energy := fun hw => (h.energy hw).trans (g.energy (h.wf hw))
  paid := g.paid ∘ h.paid
  owned := g.owned ∘ h.owned
  wf := g.wf ∘ h.wf
  owns := g.owns ∘ h.owns

/-- Soundness of a record, its part about credit named. -/
theorem Record.wf_iff {r : Record} : r.wf ↔ r.acked ≤ r.offer.number ∧ r.offer.number ≤ Config.max32 ∧
    (r.offer.runThrough.isSome = true ↔ r.offer.kind = some .run) ∧ r.creditWf ∧
    r.badChecks ≤ Config.badCheckLimit ∧ r.energy ≤ Config.max32 := by
  simp only [Record.wf, Record.creditWf, and_assoc]

theorem Record.creditWf_congr {r r' : Record} (hs : r'.state = r.state) (hr : r'.reason = r.reason)
    (hp : r'.paid = r.paid) : r'.creditWf ↔ r.creditWf := by
  simp only [Record.creditWf, hs, hr, hp]

theorem Record.owns_congr {r r' : Record} (hs : r'.state = r.state) (hc : r'.confirmed = r.confirmed) (p : Plan) :
    r'.owns p ↔ r.owns p := by
  simp only [Record.owns, hs, hc]

theorem creditState_ne_owned (paid : Option Nat) (window t : Nat) : creditState paid window t ≠ .owned := by
  unfold creditState; (repeat' split) <;> simp

theorem creditState_ne_suspended (paid : Option Nat) (window t : Nat) : creditState paid window t ≠ .suspended := by
  unfold creditState; (repeat' split) <;> simp

/-- The state of the table of R8 fits the paid-through it is read from. -/
theorem Record.creditWf_of_creditState {r : Record} {window t : Nat} (hs : r.state = creditState r.paid window t)
    (hr : r.reason = none) : r.creditWf := by
  refine ⟨by simp [hr, hs, creditState_ne_suspended], ?_⟩
  rw [hs]
  cases r.paid with
  | none => simp [creditState]
  | some p => unfold creditState; dsimp only; (repeat' split) <;> simp

/-- Only a SUSPENDED record has a suspend reason. -/
theorem Record.creditWf.reason_none {r : Record} (h : r.creditWf) (hs : r.state ≠ .suspended) : r.reason = none := by
  simpa [hs] using h.1

/-- A record that is not OWNED and whose confirmed total is below a price above 0 keeps to R10. -/
theorem Record.owns_of_below {r : Record} {p : Plan} (hs : r.state ≠ .owned)
    (hc : 0 < p.price → r.confirmed < p.price) : r.owns p :=
  ⟨fun h => (hc h).le, ⟨fun h => absurd h hs, fun ⟨h, he⟩ => absurd he (hc h).ne⟩⟩

/-- The confirmed total of a record that is not OWNED is below a price above 0. -/
theorem Record.owns.below {r : Record} {p : Plan} (h : r.owns p) (hs : r.state ≠ .owned) (hp : 0 < p.price) :
    r.confirmed < p.price :=
  lt_of_le_of_ne (h.1 hp) fun he => hs (h.2.2 ⟨hp, he⟩)

/-- Work on a record as it goes on: slot, plan and the tables of records, kits and plans stay, and the record evolves. -/
structure Work.Leads (w w' : Work) : Prop where
  slot      : w'.slot = w.slot
  plan      : w'.plan = w.plan
  accounts  : w'.engine.accounts = w.engine.accounts
  directory : w'.engine.directory = w.engine.directory
  plans     : w'.engine.plans = w.engine.plans
  record    : w.record.Evolves w.plan w'.record

theorem Work.Leads.refl (w : Work) : w.Leads w := ⟨rfl, rfl, rfl, rfl, rfl, .refl _ _⟩

theorem Work.Leads.trans {a b c : Work} (h : a.Leads b) (g : b.Leads c) : a.Leads c :=
  ⟨g.slot.trans h.slot, g.plan.trans h.plan, g.accounts.trans h.accounts, g.directory.trans h.directory,
    g.plans.trans h.plans, h.record.trans (h.plan ▸ g.record)⟩

/-- Work that touches nothing of the grant exchange leads on when it keeps paid-through, ownership, and the soundness of
the credit. -/
theorem Work.Same.leads {w w' : Work} (h : w.Same w') (paid : w.record.paid.isSome = true → w'.record.paid.isSome = true)
    (owned : w.record.state = .owned → w'.record.state = .owned) (credit : w.record.creditWf → w'.record.creditWf)
    (owns : w.record.owns w.plan → w'.record.owns w.plan) : w.Leads w' where
  slot := h.slot
  plan := h.plan
  accounts := h.accounts
  directory := h.directory
  plans := h.plans
  record :=
    { kit := h.kit, plan := h.planNumber, offered := by rw [h.offer], acked := fun _ => by rw [h.acked]
      energy := fun _ => by rw [h.energy], paid, owned, owns
      wf := by
        rw [Record.wf_iff, Record.wf_iff, h.offer, h.acked, h.badChecks, h.energy]
        exact fun ⟨h1, h2, h3, h4, h5⟩ => ⟨h1, h2, h3, credit h4, h5⟩ }

/-- Work that leaves state, suspend reason, paid-through and confirmed total as they were. -/
theorem Work.Same.leads_of_eq {w w' : Work} (h : w.Same w') (hs : w'.record.state = w.record.state)
    (hr : w'.record.reason = w.record.reason) (hp : w'.record.paid = w.record.paid)
    (hc : w'.record.confirmed = w.record.confirmed) : w.Leads w' :=
  h.leads (by rw [hp]; exact id) (by rw [hs]; exact id) (Record.creditWf_congr hs hr hp).2 (Record.owns_congr hs hc _).2

/-! ### The pieces of work -/

theorem Work.leads_raise (w : Work) (n : Notice) : w.Leads (w.raise n) :=
  (w.same_raise n).leads_of_eq rfl rfl rfl rfl

theorem Work.leads_raiseIf (w : Work) (c : Bool) (n : Notice) : w.Leads (w.raiseIf c n) := by
  cases c
  · exact .refl w
  · exact w.leads_raise n

theorem Work.leads_rekey (w : Work) : w.Leads w.rekey := w.same_rekey.leads_of_eq rfl rfl rfl rfl

theorem Work.leads_remind (w : Work) (t : Nat) : w.Leads (w.remind t) :=
  (w.same_remind t).leads_of_eq (by simp) (by simp) (by simp) (by simp)

theorem Work.leads_creditNotices (w : Work) (before : RecordState) (t : Nat) : w.Leads (w.creditNotices before t) :=
  ((w.leads_raiseIf _ _).trans (Work.leads_raiseIf _ _ _)).trans (Work.leads_remind _ t)

theorem Record.recomputed_eq_owned {r : Record} {p : Plan} {t : Nat} : r.recomputed p t = .owned ↔ r.state = .owned := by
  unfold Record.recomputed
  cases r.state <;> simp [creditState_ne_owned]

theorem Work.leads_recompute (w : Work) (t : Nat) : w.Leads (w.recompute t) := by
  have state : (w.recompute t).record.state = w.record.recomputed w.plan t := rfl
  refine (w.same_recompute t).leads id Record.recomputed_eq_owned.2 (fun h => ?_)
    fun h => ⟨h.1, Record.recomputed_eq_owned.trans h.2⟩
  by_cases kept : w.record.state = .suspended ∨ w.record.state = .owned
  · have : (w.recompute t).record.state = w.record.state := by
      rcases kept with hs | hs <;> simp [Record.recomputed, hs]
    exact (Record.creditWf_congr this rfl rfl).2 h
  · obtain ⟨hs, ho⟩ := not_or.1 kept
    exact Record.creditWf_of_creditState (state.trans (Record.recomputed_eq hs ho _ _)) (h.reason_none hs)

/-- Becoming OWNED when the price is above 0 (R10). -/
theorem Work.leads_becomeOwned {w : Work} (h : 0 < w.plan.price) : w.Leads w.becomeOwned :=
  w.same_becomeOwned.leads id (fun _ => rfl)
    (fun _ => by simp [Record.creditWf])
    fun _ => ⟨fun _ => le_refl _, fun _ => ⟨h, rfl⟩, fun _ => rfl⟩

/-- The work that every settlement of an entry begins with: the entry leaves, and its agent's slot changes (R76, R77). -/
def Work.takeEntry (w : Work) (en : Entry) (f : Agent → Agent) : Work :=
  { w.dropEntry en with engine := (w.dropEntry en).engine.changeAgent en.agent f }

theorem Work.same_takeEntry (w : Work) (en : Entry) (f : Agent → Agent) : w.Same (w.takeEntry en f) :=
  (w.same_dropEntry en).trans (Work.same_changeAgent _ _ _)

theorem Work.leads_takeEntry (w : Work) (en : Entry) (f : Agent → Agent) : w.Leads (w.takeEntry en f) :=
  (w.same_takeEntry en f).leads_of_eq rfl rfl rfl rfl

/-- The entry remainder joins the residue (R76 step 3). -/
def Work.addResidue (w : Work) (remainder : Nat) : Work :=
  { w with record := { w.record with residue := min (w.record.residue + remainder) Config.residueMax } }

/-- Confirming an entry of an OWNED record takes the entry alone (R78). -/
theorem Work.confirmEntry_owned {w : Work} (h : w.record.state = .owned) (en : Entry) :
    w.confirmEntry en = (w.takeEntry en (fun a => a.settle en.amount), 0) :=
  if_pos h

/-- Confirming an entry that completes the price (R76 step 4). -/
theorem Work.confirmEntry_completes {w : Work} {en : Entry} (h : w.record.state ≠ .owned)
    (hp : 0 < w.plan.price ∧ w.plan.price ≤ w.record.confirmed + en.amount) :
    w.confirmEntry en = (((w.takeEntry en (fun a => a.settle en.amount)).addResidue en.remainder).becomeOwned,
      w.record.confirmed + en.amount - w.plan.price) :=
  (if_neg h).trans ((if_neg hp.1.ne').trans (if_pos hp.2))

/-- Confirming any other entry credits its amount (R57, R76). -/
theorem Work.confirmEntry_credits {w : Work} {en : Entry} (h : w.record.state ≠ .owned)
    (hp : ¬(0 < w.plan.price ∧ w.plan.price ≤ w.record.confirmed + en.amount)) :
    w.confirmEntry en =
      (let w' := (w.takeEntry en (fun a => a.settle en.amount)).addResidue en.remainder
       { w' with record := { w'.record with
          confirmed := if w.plan.price = 0 then min (w.record.confirmed + en.amount) Config.totalMax
            else w.record.confirmed + en.amount } }, 0) := by
  refine (if_neg h).trans ?_
  by_cases h0 : w.plan.price = 0
  · rw [if_pos h0]
    exact if_pos h0
  · rw [if_neg h0]
    exact (if_neg h0).trans (if_neg fun g => hp ⟨Nat.pos_of_ne_zero h0, g⟩)

theorem Work.leads_addResidue (w : Work) (n : Nat) : w.Leads (w.addResidue n) :=
  Work.Same.leads_of_eq ⟨rfl, rfl, rfl, rfl, rfl, rfl, rfl, rfl, rfl, rfl, rfl, rfl, rfl, rfl⟩ rfl rfl rfl rfl

/-- Writing a confirmed total that stays below a price above 0. -/
theorem Work.leads_confirmed {w : Work} {total : Nat} (ho : w.record.state ≠ .owned)
    (h : 0 < w.plan.price → total < w.plan.price) :
    w.Leads { w with record := { w.record with confirmed := total } } :=
  Work.Same.leads ⟨rfl, rfl, rfl, rfl, rfl, rfl, rfl, rfl, rfl, rfl, rfl, rfl, rfl, rfl⟩ id id id
    fun _ => Record.owns_of_below ho h

theorem Work.leads_confirmEntry (w : Work) (en : Entry) : w.Leads (w.confirmEntry en).1 := by
  have taken := w.leads_takeEntry en (fun a => a.settle en.amount)
  by_cases h : w.record.state = .owned
  · rw [Work.confirmEntry_owned h]
    exact taken
  have credited := taken.trans (Work.leads_addResidue _ en.remainder)
  by_cases hp : 0 < w.plan.price ∧ w.plan.price ≤ w.record.confirmed + en.amount
  · rw [Work.confirmEntry_completes h hp]
    exact credited.trans (Work.leads_becomeOwned hp.1)
  · rw [Work.confirmEntry_credits h hp]
    exact credited.trans (Work.leads_confirmed h fun (g : 0 < w.plan.price) => by
      change (if w.plan.price = 0 then _ else _) < w.plan.price
      rw [if_neg g.ne']
      exact Nat.lt_of_not_le fun g' => hp ⟨g, g'⟩)

theorem Work.leads_reverseEntry (w : Work) (en : Entry) : w.Leads (w.reverseEntry en) := by
  by_cases h : w.record.state = .owned
  · have : w.reverseEntry en = w.takeEntry en (fun a => a.unsettle en.amount) := if_pos h
    rw [this]
    exact w.leads_takeEntry en _
  · have hr := (Work.reverseEntry_spec h en).1
    refine (w.same_reverseEntry en).leads (by rw [hr]; simp) (by rw [hr]; exact id) ?_
      (Record.owns_congr (by rw [hr]) (by rw [hr]) _).2
    rw [hr]
    simp [Record.creditWf]

theorem Work.leads_timedSettle (w : Work) (en : Entry) : w.Leads (w.timedSettle en) := by
  unfold Work.timedSettle
  split
  · exact (w.leads_confirmEntry en).trans (Work.leads_raise _ _)
  · exact (w.leads_reverseEntry en).trans (Work.leads_raise _ _)

theorem Work.leads_settleDue (w : Work) (t : Nat) : w.Leads (w.settleDue t) := by
  unfold Work.settleDue
  generalize dueEntries t w.record.pending = entries
  induction entries generalizing w with
  | nil => exact .refl w
  | cons en rest ih => exact (w.leads_timedSettle en).trans (ih _)

theorem Work.leads_current (w : Work) (t : Nat) : w.Leads (w.current t) :=
  (((w.leads_settleDue t).trans (Work.leads_recompute _ t)).trans (Work.leads_creditNotices _ _ t)).trans
    (Work.leads_rekey _)

theorem Work.leads_credit {w : Work} (h : w.record.state ≠ .owned) (m t : Nat) : w.Leads (w.credit m t) := by
  obtain ⟨same, paid, state, -, -, reason, -, -, confirmed, -⟩ := w.credit_spec m t
  rw [if_neg h] at state
  refine same.leads (by simp [paid]) (absurd · h) (fun hw => ?_) fun ho => ?_
  · by_cases hs : w.record.state = .suspended
    · rw [if_pos hs] at state
      have hr : w.record.reason.isSome = true := hw.1.2 hs
      simp [Record.creditWf, state, reason, hr]
    · rw [if_neg hs, ← paid] at state
      exact Record.creditWf_of_creditState state (reason.trans (hw.reason_none hs))
  · refine Record.owns_of_below ?_ fun hp => confirmed ▸ ho.below h hp
    rw [state]
    split
    · simp
    · exact creditState_ne_owned _ _ _

/-! ### The requests and messages on a record that is current -/

/-- The clamp accepts no more than the amount paid (R54). -/
theorem convert_accepted_le {p : Plan} {amount residueIn base t : Nat} {c : Conversion}
    (h : convert p amount residueIn base t = some c) : c.accepted ≤ amount := by
  unfold convert at h
  dsimp only at h
  split at h
  · cases h
    exact le_refl _
  next beyond =>
    split at h
    · cases h
    · split at h
      · cases h
      next above =>
        cases h
        have hr := roundMinutes_le p.rounding p.rate ((amount * Config.dayMinutes + residueIn) / p.rate)
          ((amount * Config.dayMinutes + residueIn) % p.rate)
        have hm : (p.capLimit t - base) * p.rate ≤ amount * Config.dayMinutes + residueIn :=
          le_trans (Nat.mul_le_mul_right _ (by omega)) (Nat.div_mul_le_self _ _)
        simp only [clampConversion]
        unfold Config.dayMinutes at *
        omega

/-- Residue and confirmed total after a converted PAY, before its minutes are credited (R57, R69). -/
def Work.takePay (w : Work) (c : Conversion) : Work :=
  { w with record := { w.record with
      residue := c.remainder
      confirmed := if w.plan.price = 0 then min (w.record.confirmed + c.accepted) Config.totalMax
        else w.record.confirmed + c.accepted } }

theorem Work.payIn_eq (w : Work) (c : Conversion) (t : Nat) : w.payIn c t = (w.takePay c).credit c.minutes t := rfl

/-- Carrying a converted PAY out, when it does not complete the price (R69). -/
theorem Work.leads_payIn {w : Work} {c : Conversion} (h : w.record.state ≠ .owned)
    (hp : 0 < w.plan.price → w.record.confirmed + c.accepted < w.plan.price) (t : Nat) : w.Leads (w.payIn c t) := by
  have below : 0 < w.plan.price → (w.takePay c).record.confirmed < w.plan.price := fun g => by
    simpa [Work.takePay, g.ne'] using hp g
  have taken : w.Leads (w.takePay c) :=
    Work.Same.leads ⟨rfl, rfl, rfl, rfl, rfl, rfl, rfl, rfl, rfl, rfl, rfl, rfl, rfl, rfl⟩ id id id
      fun _ => Record.owns_of_below h below
  exact taken.trans (Work.leads_credit (w := w.takePay c) h c.minutes t)

theorem Work.leads_reverseNow (w : Work) (en : Entry) (t : Nat) : w.Leads (w.reverseNow en t) := by
  unfold Work.reverseNow
  split
  · exact w.leads_reverseEntry en
  · exact (((w.leads_reverseEntry en).trans (Work.leads_recompute _ t)).trans (Work.leads_creditNotices _ _ t)).trans
      (Work.leads_rekey _)

/-- The tables with the entry of an accepted TOP-UP, before its minutes are credited (R73 steps 1 to 4). -/
def Work.addEntry (w : Work) (m : TopUpMsg) (a : Agent) (c : Conversion) (t : Nat) : Work :=
  let charged := w.engine.changeAgent m.agent (fun a => a.charge c.accepted)
  { w with
    engine := { charged with
      poolFree := charged.poolFree - 1
      settlement := settleInsert ⟨(m.entry a c t).deadline, w.record.kit, m.reference⟩ charged.settlement }
    record := { w.record with pending := w.record.pending ++ [m.entry a c t] } }

theorem Work.topUpAccepted_eq (w : Work) (m : TopUpMsg) (a : Agent) (c : Conversion) (t : Nat) :
    w.topUpAccepted m a c t = (w.addEntry m a c t).credit c.minutes t := rfl

theorem Work.same_addEntry (w : Work) (m : TopUpMsg) (a : Agent) (c : Conversion) (t : Nat) :
    w.Same (w.addEntry m a c t) := by
  obtain ⟨-, -, accounts, directory, plans, -⟩ := w.same_changeAgent m.agent (fun a => a.charge c.accepted)
  exact ⟨rfl, rfl, accounts, directory, plans, rfl, rfl, rfl, rfl, rfl, rfl, rfl, rfl, rfl⟩

theorem Work.leads_topUpAccepted {w : Work} (h : w.record.state ≠ .owned) (m : TopUpMsg) (a : Agent) (c : Conversion)
    (t : Nat) : w.Leads (w.topUpAccepted m a c t) :=
  ((w.same_addEntry m a c t).leads_of_eq rfl rfl rfl rfl).trans
    (Work.leads_credit (w := w.addEntry m a c t) h c.minutes t)

/-- The tables that work on a record ends with: a record it leads to, put back into its slot. -/
def Work.Yields (w : Work) (e : Engine) : Prop := ∃ w', w.Leads w' ∧ e = w'.commit

theorem Work.Leads.yields {w w' : Work} (h : w.Leads w') : w.Yields w'.commit := ⟨w', h, rfl⟩

theorem Work.Leads.yields_of {w w' : Work} {e : Engine} (h : w.Leads w') (g : w'.Yields e) : w.Yields e := by
  obtain ⟨w'', h', rfl⟩ := g
  exact (h.trans h').yields

theorem Work.yields_commit (w : Work) : w.Yields w.commit := (Work.Leads.refl w).yields

/-- The record of an accepted SUSPEND KIT (R16). -/
def Work.suspended (w : Work) (reason : Nat) : Work :=
  { w with
    engine := { w.engine with expiry := dueRemove w.record.kit w.engine.expiry }
    record := { w.record with state := .suspended, reason := some reason, due := none } }

theorem Work.suspend_refused {w : Work} (h : w.record.state = .suspended ∨ w.record.state = .owned) (reason : Nat) :
    w.suspend reason = w.refuse .wrongState :=
  if_pos (by simpa using h)

theorem Work.suspend_accepted {w : Work} (hs : w.record.state ≠ .suspended) (ho : w.record.state ≠ .owned)
    (reason : Nat) : w.suspend reason = (w.suspended reason).done [stateField (some w.record.state)] :=
  if_neg (by simp [hs, ho])

theorem Work.leads_suspended {w : Work} (ho : w.record.state ≠ .owned) (reason : Nat) : w.Leads (w.suspended reason) :=
  Work.Same.leads ⟨rfl, rfl, rfl, rfl, rfl, rfl, rfl, rfl, rfl, rfl, rfl, rfl, rfl, rfl⟩ id (absurd · ho)
    (fun _ => by simp [Work.suspended, Record.creditWf])
    fun h => Record.owns_of_below (by simp [Work.suspended]) fun hp => h.below ho hp

theorem Work.yields_suspend (w : Work) (reason : Nat) : w.Yields (w.suspend reason).1 := by
  by_cases h : w.record.state = .suspended ∨ w.record.state = .owned
  · rw [Work.suspend_refused h]
    exact w.yields_commit
  · obtain ⟨hs, ho⟩ := not_or.1 h
    rw [Work.suspend_accepted hs ho]
    exact (w.leads_suspended ho reason).yields

/-- The record of an accepted RESUME KIT before its reminder and its due entry (R17). -/
def Work.resumed (w : Work) (t : Nat) : Work :=
  { w with record := { w.record with reason := none, state := creditState w.record.paid w.plan.window t } }

theorem Work.resume_refused {w : Work} (h : w.record.state ≠ .suspended) (t : Nat) :
    w.resume t = w.refuse .wrongState :=
  if_neg h

theorem Work.resume_accepted {w : Work} (h : w.record.state = .suspended) (t : Nat) :
    w.resume t = (((w.resumed t).remind t).rekey).done [stateField (some ((w.resumed t).remind t).rekey.record.state)] :=
  if_pos h

theorem Work.leads_resumed {w : Work} (h : w.record.state = .suspended) (t : Nat) : w.Leads (w.resumed t) := by
  have ho : w.record.state ≠ .owned := by simp [h]
  exact Work.Same.leads ⟨rfl, rfl, rfl, rfl, rfl, rfl, rfl, rfl, rfl, rfl, rfl, rfl, rfl, rfl⟩ id (absurd · ho)
    (fun _ => Record.creditWf_of_creditState rfl rfl)
    fun g => Record.owns_of_below (creditState_ne_owned _ _ _) fun hp => g.below ho hp

theorem Work.yields_resume (w : Work) (t : Nat) : w.Yields (w.resume t).1 := by
  by_cases h : w.record.state = .suspended
  · rw [Work.resume_accepted h]
    exact (((w.leads_resumed h t).trans (Work.leads_remind _ t)).trans (Work.leads_rekey _)).yields
  · rw [Work.resume_refused h]
    exact w.yields_commit

/-- Work that leaves credit and confirmed total, but not the grant exchange. -/
theorem Work.leads_of_exchange {w : Work} {r : Record} (kit : r.kit = w.record.kit) (plan : r.plan = w.record.plan)
    (state : r.state = w.record.state) (paid : r.paid = w.record.paid)
    (confirmed : r.confirmed = w.record.confirmed) (offered : w.record.offer.number ≤ r.offer.number)
    (acked : w.record.wf → w.record.acked ≤ r.acked) (energy : w.record.wf → w.record.energy ≤ r.energy)
    (wf : w.record.wf → r.wf) : w.Leads { w with record := r } :=
  ⟨rfl, rfl, rfl, rfl, rfl, { kit, plan, offered, acked, energy, wf
                              paid := by rw [paid]; exact id
                              owned := by rw [state]; exact id
                              owns := (Record.owns_congr state confirmed _).2 }⟩

/-- Soundness after a change of the exchange that leaves the credit. -/
theorem Record.wf_of_exchange {r r' : Record} (h : r.wf) (state : r'.state = r.state) (reason : r'.reason = r.reason)
    (paid : r'.paid = r.paid) (acked : r'.acked ≤ r'.offer.number) (number : r'.offer.number ≤ Config.max32)
    (through : r'.offer.runThrough.isSome = true ↔ r'.offer.kind = some .run)
    (checks : r'.badChecks ≤ Config.badCheckLimit) (energy : r'.energy ≤ Config.max32) : r'.wf := by
  obtain ⟨-, -, -, credit, -, -⟩ := Record.wf_iff.1 h
  exact Record.wf_iff.2 ⟨acked, number, through, (Record.creditWf_congr state reason paid).2 credit, checks, energy⟩

theorem Work.leads_badChecks (w : Work) {n : Nat} (h : n ≤ Config.badCheckLimit) :
    w.Leads { w with record := { w.record with badChecks := n } } := by
  refine Work.leads_of_exchange rfl rfl rfl rfl rfl (le_refl _) (fun _ => le_refl _) (fun _ => le_refl _) fun hw => ?_
  obtain ⟨acked, number, through, -, -, energy⟩ := Record.wf_iff.1 hw
  exact Record.wf_of_exchange hw rfl rfl rfl acked number through h energy

theorem Work.yields_setKey (w : Work) (key : Word32) : w.Yields (w.setKey key).1 := by
  refine Work.Leads.yields (w' := { w with record := { w.record with key := key, badChecks := 0 } }) ?_
  refine Work.leads_of_exchange rfl rfl rfl rfl rfl (le_refl _) (fun _ => le_refl _) (fun _ => le_refl _) fun hw => ?_
  obtain ⟨acked, number, through, -, -, energy⟩ := Record.wf_iff.1 hw
  exact Record.wf_of_exchange hw rfl rfl rfl acked number through (Nat.zero_le _) energy

theorem Work.yields_pay (w : Work) (calendar : CalendarState) (amount t : Nat) : w.Yields (w.pay calendar amount t).1 := by
  unfold Work.pay
  split
  · exact w.yields_commit
  split
  · exact w.yields_commit
  next ho =>
  split
  · exact w.yields_commit
  split
  next complete =>
    have hp : 0 < w.plan.price := by
      simp only [Record.completesPrice, Bool.and_eq_true, decide_eq_true_eq] at complete
      exact complete.1
    exact (Work.leads_becomeOwned hp).yields
  next short =>
    split
    · exact w.yields_commit
    next c hc =>
      refine (Work.leads_payIn ho (fun hp => ?_) t).yields
      have hle := convert_accepted_le hc
      simp only [Record.completesPrice, Bool.and_eq_true, decide_eq_true_eq, not_and, not_le] at short
      exact lt_of_le_of_lt (Nat.add_le_add_left hle _) (short hp)

theorem Work.yields_confirm (w : Work) (reference : Nat) : w.Yields (w.confirm reference).1 := by
  unfold Work.confirm
  split
  · exact w.yields_commit
  next entry _ => exact (w.leads_confirmEntry entry).yields

theorem Work.yields_reverse (w : Work) (reference t : Nat) : w.Yields (w.reverse reference t).1 := by
  unfold Work.reverse
  split
  · exact w.yields_commit
  next entry _ => exact (w.leads_reverseNow entry t).yields

/-! ### CHECK-IN and TOP-UP -/

theorem Work.leads_badCheck (w : Work) : w.Leads w.badCheck :=
  (w.leads_badChecks (Nat.min_le_right _ _)).trans (Work.leads_raiseIf _ _ _)

theorem Work.leads_recordReport (w : Work) (m : CheckInMsg) (n : LineNo) (t : Nat) : w.Leads (w.recordReport m n t) := by
  refine Work.Leads.trans ?_ (Work.leads_raiseIf _ _ _)
  refine Work.leads_of_exchange rfl rfl rfl rfl rfl (le_refl _) (fun _ => le_refl _) (fun hw => ?_) fun hw => ?_
  all_goals obtain ⟨acked, number, through, -, checks, energy⟩ := Record.wf_iff.1 hw
  · exact le_min (Nat.le_add_right _ _) energy
  · exact Record.wf_of_exchange hw rfl rfl rfl acked number through checks (Nat.min_le_right _ _)

/-- The acknowledged number does not fall, nor rise above the offered one (R130). -/
theorem ackedAfter_bounds {acked offered held : Nat} (h : acked ≤ offered) :
    acked ≤ ackedAfter acked offered held ∧ ackedAfter acked offered held ≤ offered := by
  simp only [ackedAfter, Bool.and_eq_true, decide_eq_true_eq]
  (repeat' split) <;> omega

theorem Work.leads_compareHeld (w : Work) (held : Nat) : w.Leads (w.compareHeld held) := by
  refine Work.Leads.trans ?_ (Work.leads_raiseIf _ _ _)
  refine Work.leads_of_exchange rfl rfl rfl rfl rfl (le_refl _) (fun hw => ?_) (fun _ => le_refl _) fun hw => ?_
  all_goals obtain ⟨acked, number, through, -, checks, energy⟩ := Record.wf_iff.1 hw
  · exact (ackedAfter_bounds acked).1
  · exact Record.wf_of_exchange hw rfl rfl rfl (ackedAfter_bounds acked).2 number through checks energy

/-- The shape an offer keeps: its number within its field, and a run-through for RUN and no other kind (R5, R124). -/
def Offer.wf (o : Offer) : Prop := o.number ≤ Config.max32 ∧ (o.runThrough.isSome = true ↔ o.kind = some .run)

/-- What is desired has a run-through when it is RUN, and for no other kind (R133 to R135). -/
theorem Record.desired_offer {r : Record} {p : Plan} {t : Nat} {kind : GrantKind} {through : Option Nat}
    (h : r.desired p t = .offer kind through) : through.isSome = true ↔ kind = .run := by
  unfold Record.desired at h
  split at h
  case h_6 =>
    split at h
    · split at h <;> cases h
    · cases h
      simp
  all_goals
    cases h
    simp

theorem Offer.wf_after {o : Offer} {d : Desired} {renew : Nat}
    (hd : ∀ kind through, d = .offer kind through → (through.isSome = true ↔ kind = .run)) (h : o.wf) :
    (o.after d renew).wf := by
  unfold Offer.after
  split
  · exact h
  next room =>
    have bound : o.number + 1 ≤ Config.max32 := Nat.lt_of_not_le room
    split
    next kind through =>
      split
      · exact ⟨bound, by simpa using hd kind through rfl⟩
      · exact h
    · exact ⟨bound, by simp⟩
    · exact h

/-- The offered number does not fall, whatever is desired (R136, R137). -/
theorem Offer.number_le_after (o : Offer) (d : Desired) (renew : Nat) : o.number ≤ (o.after d renew).number := by
  unfold Offer.after
  (repeat' split) <;> simp

/-- The offer decided is the standing one, or the one that stands after what is desired (R131, R132). -/
theorem Work.offerAfter_cases (w : Work) (calendar : CalendarState) (held t : Nat) :
    w.offerAfter calendar held t = w.record.offer ∨
      w.offerAfter calendar held t = w.record.offer.after (w.record.desired w.plan t) w.plan.renew := by
  unfold Work.offerAfter
  split
  · exact .inl rfl
  · exact .inr rfl

theorem Work.number_le_offerAfter (w : Work) (calendar : CalendarState) (held t : Nat) :
    w.record.offer.number ≤ (w.offerAfter calendar held t).number := by
  obtain h | h := w.offerAfter_cases calendar held t <;> rw [h]
  exact Offer.number_le_after ..

theorem Work.wf_offerAfter {w : Work} (h : w.record.offer.wf) (calendar : CalendarState) (held t : Nat) :
    (w.offerAfter calendar held t).wf := by
  obtain g | g := w.offerAfter_cases calendar held t <;> rw [g]
  · exact h
  · exact Offer.wf_after (fun _ _ => Record.desired_offer) h

theorem Work.leads_offerAfter (w : Work) (calendar : CalendarState) (held t : Nat) :
    w.Leads { w with record := { w.record with offer := w.offerAfter calendar held t } } := by
  have rises := w.number_le_offerAfter calendar held t
  refine Work.leads_of_exchange rfl rfl rfl rfl rfl rises (fun _ => le_refl _) (fun _ => le_refl _) fun hw => ?_
  obtain ⟨acked, number, through, -, checks, energy⟩ := Record.wf_iff.1 hw
  obtain ⟨number', through'⟩ := Work.wf_offerAfter ⟨number, through⟩ calendar held t
  exact Record.wf_of_exchange hw rfl rfl rfl (acked.trans rises) number' through' checks energy

theorem Work.leads_goodCheck (w : Work) (m : CheckInMsg) (n : LineNo) (calendar : CalendarState) (t : Nat) :
    w.Leads (w.goodCheck m n calendar t).1 :=
  ((((w.leads_badChecks (Nat.zero_le _)).trans (Work.leads_current _ t)).trans (Work.leads_recordReport _ m n t)).trans
    (Work.leads_compareHeld _ m.held)).trans (Work.leads_offerAfter _ calendar m.held t)

theorem Work.leads_topUp (w : Work) (m : TopUpMsg) (a : Agent) (calendar : CalendarState) (t : Nat) :
    w.Leads (w.topUp m a calendar t).1 := by
  unfold Work.topUp
  split
  · exact .refl w
  split
  · unfold Work.duplicate
    split <;> exact .refl w
  split
  · exact .refl w
  next ho =>
  split
  · exact .refl w
  split
  · exact .refl w
  split
  · exact .refl w
  split
  · exact .refl w
  next c _ =>
  dsimp only
  split
  · exact .refl w
  · exact Work.leads_topUpAccepted ho m a c t

end Sys2Proof.Machine

/-! # Commands and the tables -/

namespace Sys2Proof.Machine

/-! ## What a command can make of the tables

Every invariant of the tables that a command keeps follows from the list below, which says once what the engine's tables can
be after a command: as they were, emptied by a cold start, or as the work of one request, message or pass leaves them. -/

/-- What the requests on agents leave of the tables (chapter 5). -/
inductive Engine.AgentWork (e : Engine) : Engine → Prop
  | openAgent (agent : Nat) (f : AgentNums) : e.AgentWork (e.openAgent agent f).1
  | amendAgent (agent changes : Nat) (f : AgentNums) : e.AgentWork (e.amendAgent agent changes f).1
  | setBarred (agent : Nat) (barred : Bool) : e.AgentWork (e.setBarred agent barred).1
  | closeAgent (agent : Nat) : e.AgentWork (e.closeAgent agent).1
  | clearWatermark (agent : Nat) : e.AgentWork (e.clearWatermark agent).1

/-- What a request, message or pass leaves of the tables that found the record `w` and keeps it in its slot under its plan,
at the instant `t`. -/
inductive Work.Served (w : Work) (t : Nat) : Engine → Prop
  | current : w.Served t (w.current t).commit
  | suspend (reason : Nat) : w.Served t ((w.current t).suspend reason).1
  | resume : w.Served t ((w.current t).resume t).1
  | setKey (key : Word32) : w.Served t ((w.current t).setKey key).1
  | pay (calendar : CalendarState) (amount : Nat) : w.Served t ((w.current t).pay calendar amount t).1
  | confirm (reference : Nat) : w.Served t ((w.current t).confirm reference).1
  | reverse (reference : Nat) : w.Served t ((w.current t).reverse reference t).1
  | goodCheck (m : CheckInMsg) (n : LineNo) (calendar : CalendarState) :
    w.Served t (w.goodCheck m n calendar t).1.commit
  | badCheck : w.Served t w.badCheck.commit
  | topUp (m : TopUpMsg) (a : Agent) (calendar : CalendarState) (agent : w.engine.agents.get m.agent = some a)
    (reference : m.reference ≠ 0) : w.Served t ((w.current t).topUp m a calendar t).1.commit

/-- What a command at the instant `t` leaves of the tables. -/
inductive Engine.Change (e : Engine) (t : Nat) : Engine → Prop
  | same : e.Change t e
  | cold : e.Change t .cold
  | agents {e' : Engine} (h : e.AgentWork e') : e.Change t e'
  | definePlan (plan : Nat) (p : PlanNums) : e.Change t (e.definePlan plan p).1
  | amendPlan (plan changes : Nat) (p : PlanNums) : e.Change t (e.amendPlan plan changes p).1
  | releasePlan (plan : Nat) : e.Change t (e.releasePlan plan).1
  | enrolKit (kit plan : Nat) (key : Word32) (base : Nat) : e.Change t (e.enrolKit kit plan key base).1
  | takeNotices (count : Nat) : e.Change t (e.takeNotices count).1
  | served {kit : Nat} {w : Work} {e' : Engine} (found : e.find kit = .found w) (h : w.Served t e') : e.Change t e'
  | move {kit : Nat} {w : Work} {plan : Nat} {new : Plan} (found : e.find kit = .found w)
    (defined : e.plans.get plan = some new) : e.Change t ((w.current t).move plan new t).1
  | retire {kit : Nat} {w : Work} (found : e.find kit = .found w) (force : Bool) :
    e.Change t ((w.current t).retire force).1

section
variable {s s' : State}

theorem Engine.Change.of_eq {e e' : Engine} {t : Nat} (h : e' = e) : e.Change t e' := h ▸ .same

/-! ### The three ways a command ends -/

theorem State.answer_engine {e : Engine} {r : Response} (h : s.answer (some (e, r)) = .next s') : s'.engine = e := by
  obtain rfl := Host.Outcome.next.inj h
  simp

/-- A record request leaves the tables, or does its work on the record it found (R11). -/
theorem State.answer_onKit {e : Engine} {r : Request} {kit t : Nat} {good : Bool} {name : Option Result}
    {work : Work → Worked} (h : s.answer (e.onKit r kit good name t work) = .next s')
    (hw : ∀ w, e.find kit = .found w → e.Change t (work (w.current t)).1) : e.Change t s'.engine := by
  unfold Engine.onKit at h
  split at h
  · exact .of_eq (State.answer_engine h)
  split at h
  · exact .of_eq (State.answer_engine h)
  · cases h
  next w found =>
    split at h
    · exact .of_eq (State.answer_engine h)
    · exact State.answer_engine h ▸ hw w found

/-- A taken message leaves the tables its work made. -/
theorem State.handle_engine {n : LineNo} {e : Engine} {d : Option Delivery} (h : s.handle n (some (e, d)) = .next s') :
    s'.engine = e := by
  cases d with
  | none => rw [State.handle_silent] at h; cases h; rfl
  | some d => rw [State.handle_reply] at h; cases h; rfl

/-! ### The host requests -/

theorem execEnrolKit_change (h : execEnrolKit s = .next s') : s.engine.Change s.instant s'.engine := by
  unfold execEnrolKit at h
  split at h
  · exact State.answer_engine h ▸ .enrolKit ..
  · cases h; exact .same

theorem execLookupKit_change (h : execLookupKit s = .next s') : s.engine.Change s.instant s'.engine := by
  unfold execLookupKit at h
  split at h
  · exact State.answer_onKit h fun _ found => .served found .current
  · cases h; exact .same

theorem execSuspendKit_change (h : execSuspendKit s = .next s') : s.engine.Change s.instant s'.engine := by
  unfold execSuspendKit at h
  split at h
  · exact State.answer_onKit h fun _ found => .served found (.suspend _)
  · cases h; exact .same

theorem execResumeKit_change (h : execResumeKit s = .next s') : s.engine.Change s.instant s'.engine := by
  unfold execResumeKit at h
  split at h
  · exact State.answer_onKit h fun _ found => .served found .resume
  · cases h; exact .same

theorem execSetKitKey_change (h : execSetKitKey s = .next s') : s.engine.Change s.instant s'.engine := by
  unfold execSetKitKey at h
  split at h
  · exact State.answer_onKit h fun _ found => .served found (.setKey _)
  · cases h; exact .same

theorem execMovePlan_change (h : execMovePlan s = .next s') : s.engine.Change s.instant s'.engine := by
  unfold execMovePlan at h
  split at h
  · split at h
    · exact State.answer_onKit h fun _ found => .served found .current
    next defined => exact State.answer_onKit h fun _ found => .move found defined
  · cases h; exact .same

theorem execRetireKit_change (h : execRetireKit s = .next s') : s.engine.Change s.instant s'.engine := by
  unfold execRetireKit at h
  split at h
  · exact State.answer_onKit h fun _ found => .retire found _
  · cases h; exact .same

theorem execPay_change (h : execPay s = .next s') : s.engine.Change s.instant s'.engine := by
  unfold execPay at h
  split at h
  · exact State.answer_onKit h fun _ found => .served found (.pay _ _)
  · cases h; exact .same

theorem execConfirm_change (h : execConfirm s = .next s') : s.engine.Change s.instant s'.engine := by
  unfold execConfirm at h
  split at h
  · exact State.answer_onKit h fun _ found => .served found (.confirm _)
  · cases h; exact .same

theorem execReverse_change (h : execReverse s = .next s') : s.engine.Change s.instant s'.engine := by
  unfold execReverse at h
  split at h
  · exact State.answer_onKit h fun _ found => .served found (.reverse _)
  · cases h; exact .same

theorem execDefinePlan_change (h : execDefinePlan s = .next s') : s.engine.Change s.instant s'.engine := by
  unfold execDefinePlan at h
  split at h
  · exact State.answer_engine h ▸ .definePlan ..
  · cases h; exact .same

theorem execAmendPlan_change (h : execAmendPlan s = .next s') : s.engine.Change s.instant s'.engine := by
  unfold execAmendPlan at h
  split at h
  · exact State.answer_engine h ▸ .amendPlan ..
  · cases h; exact .same

theorem Engine.readPlan_engine (e : Engine) (plan : Nat) : (e.readPlan plan).1 = e := by
  unfold Engine.readPlan
  (repeat' split) <;> rfl

theorem execReadPlan_change (h : execReadPlan s = .next s') : s.engine.Change s.instant s'.engine := by
  unfold execReadPlan at h
  split at h
  · exact .of_eq ((State.answer_engine h).trans (Engine.readPlan_engine ..))
  · cases h; exact .same

theorem execReleasePlan_change (h : execReleasePlan s = .next s') : s.engine.Change s.instant s'.engine := by
  unfold execReleasePlan at h
  split at h
  · exact State.answer_engine h ▸ .releasePlan ..
  · cases h; exact .same

theorem execOpenAgent_change (h : execOpenAgent s = .next s') : s.engine.Change s.instant s'.engine := by
  unfold execOpenAgent at h
  split at h
  · exact State.answer_engine h ▸ .agents (.openAgent ..)
  · cases h; exact .same

theorem execAmendAgent_change (h : execAmendAgent s = .next s') : s.engine.Change s.instant s'.engine := by
  unfold execAmendAgent at h
  split at h
  · exact State.answer_engine h ▸ .agents (.amendAgent ..)
  · cases h; exact .same

theorem Engine.readAgent_engine (e : Engine) (agent : Nat) : (e.readAgent agent).1 = e := by
  unfold Engine.readAgent Engine.onAgent
  (repeat' split) <;> rfl

theorem execReadAgent_change (h : execReadAgent s = .next s') : s.engine.Change s.instant s'.engine := by
  unfold execReadAgent at h
  split at h
  · exact .of_eq ((State.answer_engine h).trans (Engine.readAgent_engine ..))
  · cases h; exact .same

theorem execBarAgent_change (h : execBarAgent s = .next s') : s.engine.Change s.instant s'.engine := by
  unfold execBarAgent at h
  split at h
  · exact State.answer_engine h ▸ .agents (.setBarred ..)
  · cases h; exact .same

theorem execUnbarAgent_change (h : execUnbarAgent s = .next s') : s.engine.Change s.instant s'.engine := by
  unfold execUnbarAgent at h
  split at h
  · exact State.answer_engine h ▸ .agents (.setBarred ..)
  · cases h; exact .same

theorem execCloseAgent_change (h : execCloseAgent s = .next s') : s.engine.Change s.instant s'.engine := by
  unfold execCloseAgent at h
  split at h
  · exact State.answer_engine h ▸ .agents (.closeAgent ..)
  · cases h; exact .same

theorem execClearWatermark_change (h : execClearWatermark s = .next s') : s.engine.Change s.instant s'.engine := by
  unfold execClearWatermark at h
  split at h
  · exact State.answer_engine h ▸ .agents (.clearWatermark ..)
  · cases h; exact .same

theorem execTakeNotices_change (h : execTakeNotices s = .next s') : s.engine.Change s.instant s'.engine := by
  unfold execTakeNotices at h
  split at h
  · dsimp only at h
    split at h
    · cases h
    · exact State.answer_engine h ▸ .takeNotices _
  · cases h; exact .same

/-! ### The requests that read the tables, or act on the calendar, the lines or the attention output -/

theorem execNextDue_engine (h : execNextDue s = .next s') : s'.engine = s.engine := by
  unfold execNextDue at h
  split at h
  · dsimp only at h
    split at h
    · cases h
    · exact State.answer_engine h
  · cases h; rfl

theorem execTableSummary_engine (h : execTableSummary s = .next s') : s'.engine = s.engine := by
  unfold execTableSummary at h
  split at h
  · exact State.answer_engine h
  · cases h; rfl

theorem execReadTime_engine (h : execReadTime s = .next s') : s'.engine = s.engine := by
  unfold execReadTime at h
  split at h
  · exact State.answer_engine h
  · cases h; rfl

theorem execSetTime_engine (h : execSetTime s = .next s') : s'.engine = s.engine := by
  unfold execSetTime at h
  split at h
  · split at h
    · exact State.answer_engine h
    · cases h; rfl
  · cases h; rfl

theorem execAlignMinute_engine (h : execAlignMinute s = .next s') : s'.engine = s.engine := by
  unfold execAlignMinute at h
  split at h
  · split at h
    · exact State.answer_engine h
    · cases h; rfl
  · cases h; rfl

theorem execSetRegulation_engine (h : execSetRegulation s = .next s') : s'.engine = s.engine := by
  unfold execSetRegulation at h
  split at h
  · split at h
    · cases h; rfl
    · exact State.answer_engine h
  · cases h; rfl

theorem execSetLine_engine (h : execSetLine s = .next s') : s'.engine = s.engine := by
  unfold execSetLine at h
  split at h
  · dsimp only at h
    split at h
    · exact State.answer_engine h
    · exact State.answer_engine h
  · cases h; rfl

theorem execReadLine_engine (h : execReadLine s = .next s') : s'.engine = s.engine := by
  unfold execReadLine at h
  split at h
  · split at h
    · cases h; rfl
    · exact State.answer_engine h
  · cases h; rfl

theorem execSetAttentionMask_engine (h : execSetAttentionMask s = .next s') : s'.engine = s.engine := by
  unfold execSetAttentionMask at h
  split at h
  · split at h
    · exact State.answer_engine h
    · cases h; rfl
  · cases h; rfl

theorem execReadAttention_engine (h : execReadAttention s = .next s') : s'.engine = s.engine := by
  unfold execReadAttention at h
  split at h
  · exact State.answer_engine h
  · cases h; rfl

theorem execUnknownRequestKind_engine (h : execUnknownRequestKind s = .next s') : s'.engine = s.engine := by
  unfold execUnknownRequestKind at h
  split at h
  · cases h; rfl
  · split at h
    · cases h; rfl
    · exact State.answer_engine h

/-! ### The messages and the passes -/

theorem execCheckIn_change (h : execCheckIn s = .next s') : s.engine.Change s.instant s'.engine := by
  unfold execCheckIn Engine.checkIn at h
  split at h
  · split at h
    · exact .of_eq (State.handle_engine h)
    · cases h
    next found =>
      split at h
      · exact State.handle_engine h ▸ .served found (.goodCheck ..)
      · exact State.handle_engine h ▸ .served found .badCheck
  · cases h; exact .same

/-- The agent a line message comes from, by the number it carries, the bytes its check covers and the check: the search that
TOP-UP and STATUS begin with (R71, R143). -/
def Engine.senderOf (e : Engine) (number : Nat) (covered : List Byte) (check : Word32) : Option Agent :=
  if agentInRange number then
    match e.agents.get number with
    | some a => if keyedCheck a.key covered = check then some a else none
    | none => none
  else none

theorem Engine.senderOf_eq_some {e : Engine} {number : Nat} {covered : List Byte} {check : Word32} {a : Agent} :
    e.senderOf number covered check = some a ↔
      agentInRange number = true ∧ e.agents.get number = some a ∧ keyedCheck a.key covered = check := by
  unfold Engine.senderOf
  cases agentInRange number
  · simp
  · cases e.agents.get number with
    | none => simp
    | some b =>
      by_cases h : keyedCheck b.key covered = check
      · simp only [if_true, h, Option.some.injEq, true_and]
        exact ⟨fun g => ⟨g, g ▸ h⟩, And.left⟩
      · simp only [if_true, h, if_false, reduceCtorEq, Option.some.injEq, true_and, false_iff, not_and]
        exact fun g => g ▸ h

/-- TOP-UP leaves the tables, or works on the record it found for the agent it comes from (R71, R72). -/
theorem Engine.topUp_cases {e e' : Engine} {m : TopUpMsg} {calendar : CalendarState} {t : Nat} {d : Option Delivery}
    (h : e.topUp m calendar t = some (e', d)) :
    e' = e ∨ ∃ a w, e.agents.get m.agent = some a ∧ m.reference ≠ 0 ∧ e.find m.kit = .found w ∧
      e' = ((w.current t).topUp m a calendar t).1.commit := by
  unfold Engine.topUp at h
  split at h
  · cases h; exact .inl rfl
  next a sender =>
  split at h
  · cases h; exact .inl rfl
  split at h
  · cases h; exact .inl rfl
  next fields =>
  split at h
  · cases h; exact .inl rfl
  · cases h
  next w found =>
    cases h
    obtain ⟨-, agent, -⟩ := Engine.senderOf_eq_some.1 (show e.senderOf m.agent m.covered m.check = some a from sender)
    exact .inr ⟨a, w, agent, fun zero => by simp [zero] at fields, found, rfl⟩

theorem execTopUp_change (h : execTopUp s = .next s') : s.engine.Change s.instant s'.engine := by
  unfold execTopUp at h
  split at h
  next m _ =>
    cases work : s.engine.topUp m s.calendar.state s.instant with
    | none =>
      rw [work] at h
      cases h
    | some left =>
      rw [work] at h
      obtain same | ⟨a, w, agent, reference, found, served⟩ := Engine.topUp_cases work
      · exact .of_eq ((State.handle_engine h).trans same)
      · rw [State.handle_engine h, served]
        exact .served found (.topUp m a _ (by rwa [(Engine.find_spec found).1]) reference)
  · cases h; exact .same

theorem execStatus_change (h : execStatus s = .next s') : s.engine.Change s.instant s'.engine := by
  unfold execStatus Engine.status at h
  split at h
  · split at h
    · exact .of_eq (State.handle_engine h)
    split at h
    · exact .of_eq (State.handle_engine h)
    split at h
    · exact .of_eq (State.handle_engine h)
    · cases h
    next found => exact State.handle_engine h ▸ .served found .current
  · cases h; exact .same

theorem State.passOver_change {r : Requester} {kit : Nat} (h : s.passOver r kit = .next s') :
    s.engine.Change s.instant s'.engine := by
  unfold State.passOver Engine.bringCurrent at h
  cases found : s.engine.find kit with
  | unknown => simp [found] at h
  | broken => simp [found] at h
  | found w =>
    simp only [found] at h
    cases h
    exact .served found .current

theorem execExpiryPass_change (h : execExpiryPass s = .next s') : s.engine.Change s.instant s'.engine := by
  unfold execExpiryPass at h
  split at h
  · exact State.passOver_change h
  · cases h; exact .same

theorem execSettlementPass_change (h : execSettlementPass s = .next s') : s.engine.Change s.instant s'.engine := by
  unfold execSettlementPass at h
  split at h
  · exact State.passOver_change h
  · cases h; exact .same

/-! ### The events of the calendar, the lines, the port and the supply -/

/-- A command that may change a part of the state outside the tables. -/
theorem engine_of_next_ite {c : Prop} [Decidable c] {a : State} (h : Host.Outcome.next (if c then a else s) =
    (.next s' : Host.Outcome State Fault Refusal)) (ha : a.engine = s.engine) : s'.engine = s.engine := by
  obtain rfl := Host.Outcome.next.inj h
  split
  · exact ha
  · rfl

theorem State.frame_engine {before clocks : Nat} {live : Status → State} (hl : ∀ x, (live x).engine = s.engine) :
    (s.frame before clocks live).engine = s.engine := by
  unfold State.frame
  split
  · rfl
  · split
    · exact hl _
    · exact hl _
    · rfl
    · rfl
    · rfl

theorem State.readFrame_engine (x : Status) (clocks : Nat) : (s.readFrame x clocks).engine = s.engine := rfl

theorem State.judgeFrame_engine (x : Status) (bits : List Bool) : (s.judgeFrame x bits).engine = s.engine := by
  unfold State.judgeFrame
  dsimp only
  split <;> rfl

theorem State.readAny_engine (before clocks : Nat) : (s.readAny before clocks).engine = s.engine :=
  State.frame_engine fun x => s.readFrame_engine x clocks

theorem execRequestFrame_engine {frame : FrameIn} (h : execRequestFrame frame s = .next s') : s'.engine = s.engine := by
  unfold execRequestFrame at h
  split at h
  · cases h; rfl
  split at h
  · cases h; exact State.readAny_engine ..
  · cases h; exact State.frame_engine fun x => s.judgeFrame_engine x frame.bits

theorem execTimeLoad_engine (h : execTimeLoad s = .next s') : s'.engine = s.engine := by
  unfold execTimeLoad at h
  split at h
  · cases h; simp
  · cases h; rfl

theorem execAlignCommand_engine (h : execAlignCommand s = .next s') : s'.engine = s.engine := by
  unfold execAlignCommand at h
  split at h
  · cases h; simp
  · cases h; rfl

theorem execRegulationWrite_engine (h : execRegulationWrite s = .next s') : s'.engine = s.engine := by
  unfold execRegulationWrite at h
  split at h
  · cases h; simp
  · cases h; rfl

theorem execMaskWrite_engine (h : execMaskWrite s = .next s') : s'.engine = s.engine := by
  unfold execMaskWrite at h
  split at h
  · cases h; simp
  · cases h; rfl

theorem execSettingsCommand_engine {n : LineNo} {elapsed : Nat} (h : execSettingsCommand n elapsed s = .next s') :
    s'.engine = s.engine := by
  unfold execSettingsCommand at h
  split at h
  · cases h; rfl
  · cases h; rfl

theorem execReadCommand_engine {n : LineNo} {elapsed : Nat} (h : execReadCommand n elapsed s = .next s') :
    s'.engine = s.engine := by
  unfold execReadCommand at h
  split at h
  · cases h; simp
  · cases h; rfl

theorem execLineDelivery_engine {n : LineNo} (h : execLineDelivery n s = .next s') : s'.engine = s.engine := by
  unfold execLineDelivery at h
  split at h
  · cases h; rfl
  · cases h; rfl

theorem execStartComplete_engine (h : execStartComplete s = .next s') : s'.engine = s.engine := by
  unfold execStartComplete at h
  split at h <;> cases h <;> rfl

theorem execFailWarningRise_engine (h : execFailWarningRise s = .next s') : s'.engine = s.engine := by
  unfold execFailWarningRise at h
  split at h <;> cases h <;> rfl

theorem execBackupLowChange_engine {low : Bool} (h : execBackupLowChange low s = .next s') : s'.engine = s.engine := by
  unfold execBackupLowChange at h
  split at h <;> cases h <;> rfl

/-- A start with an invalid mark empties the tables (R187). -/
theorem execMainSupplyGoodRise_change {failWarning cellLow : Bool}
    (h : execMainSupplyGoodRise failWarning cellLow s = .next s') : s.engine.Change s.instant s'.engine := by
  have started : s.engine.Change s.instant ((if s.supply.mark then s else s.coldStart).starting cellLow).engine := by
    cases s.supply.mark
    · exact .cold
    · exact .same
  unfold execMainSupplyGoodRise at h
  split at h
  case h_4 | h_5 =>
    cases h
    cases failWarning <;> exact started
  all_goals
    cases h
    exact .same

/-- Without main supply the tables are kept while the cell holds, and lost otherwise (R185, R186). -/
theorem State.orUnpowered_change {e : Engine} (h : s.engine = e) (holds : Bool) (t : Nat) :
    e.Change t (s.orUnpowered holds).engine := by
  cases holds
  · exact .cold
  · exact .of_eq h

theorem execMainSupplyGoodFall_change {fall : SupplyFall} (h : execMainSupplyGoodFall fall s = .next s') :
    s.engine.Change s.instant s'.engine := by
  unfold execMainSupplyGoodFall at h
  split at h
  case h_1 | h_2 => cases h; exact .same
  case h_3 => cases h; exact State.orUnpowered_change (by rfl) ..
  case h_4 | h_5 =>
    split at h
    · cases h; exact State.orUnpowered_change (by rfl) ..
    · cases h; exact State.orUnpowered_change (by rfl) ..

theorem execBackupBelowRetention_change (h : execBackupBelowRetention s = .next s') :
    s.engine.Change s.instant s'.engine := by
  obtain rfl := Host.Outcome.next.inj h
  split
  · exact .cold
  · exact .same

/-- What any command leaves of the tables. -/
theorem exec_change {c : Instr} (h : exec c s = .next s') : s.engine.Change s.instant s'.engine := by
  cases c with
  | enrolKit => exact execEnrolKit_change h
  | lookupKit => exact execLookupKit_change h
  | suspendKit => exact execSuspendKit_change h
  | resumeKit => exact execResumeKit_change h
  | setKitKey => exact execSetKitKey_change h
  | movePlan => exact execMovePlan_change h
  | retireKit => exact execRetireKit_change h
  | definePlan => exact execDefinePlan_change h
  | amendPlan => exact execAmendPlan_change h
  | readPlan => exact execReadPlan_change h
  | releasePlan => exact execReleasePlan_change h
  | pay => exact execPay_change h
  | confirm => exact execConfirm_change h
  | reverse => exact execReverse_change h
  | openAgent => exact execOpenAgent_change h
  | amendAgent => exact execAmendAgent_change h
  | readAgent => exact execReadAgent_change h
  | barAgent => exact execBarAgent_change h
  | unbarAgent => exact execUnbarAgent_change h
  | closeAgent => exact execCloseAgent_change h
  | clearWatermark => exact execClearWatermark_change h
  | takeNotices => exact execTakeNotices_change h
  | nextDue => exact .of_eq (execNextDue_engine h)
  | tableSummary => exact .of_eq (execTableSummary_engine h)
  | readTime => exact .of_eq (execReadTime_engine h)
  | setTime => exact .of_eq (execSetTime_engine h)
  | alignMinute => exact .of_eq (execAlignMinute_engine h)
  | setRegulation => exact .of_eq (execSetRegulation_engine h)
  | setLine => exact .of_eq (execSetLine_engine h)
  | readLine => exact .of_eq (execReadLine_engine h)
  | setAttentionMask => exact .of_eq (execSetAttentionMask_engine h)
  | readAttention => exact .of_eq (execReadAttention_engine h)
  | unknownRequestKind => exact .of_eq (execUnknownRequestKind_engine h)
  | checkIn => exact execCheckIn_change h
  | topUp => exact execTopUp_change h
  | status => exact execStatus_change h
  | expiryPass => exact execExpiryPass_change h
  | settlementPass => exact execSettlementPass_change h
  | requestFrame frame => exact .of_eq (execRequestFrame_engine h)
  | readFrame frame => exact .of_eq (Host.Outcome.next.inj h ▸ State.readAny_engine ..)
  | timebaseStep => exact .of_eq (engine_of_next_ite h rfl)
  | regulationHoldEnd => exact .of_eq (engine_of_next_ite h rfl)
  | timeLoad => exact .of_eq (execTimeLoad_engine h)
  | alignCommand => exact .of_eq (execAlignCommand_engine h)
  | regulationWrite => exact .of_eq (execRegulationWrite_engine h)
  | settingsCommand n elapsed => exact .of_eq (execSettingsCommand_engine h)
  | readCommand n elapsed => exact .of_eq (execReadCommand_engine h)
  | maskWrite => exact .of_eq (execMaskWrite_engine h)
  | lineDelivery n => exact .of_eq (execLineDelivery_engine h)
  | receiveCharacter n elapsed data parityBit stopBit => exact .of_eq (engine_of_next_ite h rfl)
  | gapTimeout n time => exact .of_eq (engine_of_next_ite h rfl)
  | replyBegin n time => exact .of_eq (engine_of_next_ite h rfl)
  | replyEnd n elapsed => exact .of_eq (engine_of_next_ite h rfl)
  | mainSupplyGoodRise failWarning cellLow => exact execMainSupplyGoodRise_change h
  | startComplete => exact .of_eq (execStartComplete_engine h)
  | failWarningRise => exact .of_eq (execFailWarningRise_engine h)
  | mainSupplyGoodFall fall => exact execMainSupplyGoodFall_change h
  | backupBelowRetention => exact execBackupBelowRetention_change h
  | backupLowChange low => exact .of_eq (execBackupLowChange_engine h)
  | resetAssert => exact .of_eq (engine_of_next_ite h rfl)
  | resetRestart => exact .of_eq (engine_of_next_ite h rfl)

end

end Sys2Proof.Machine

/-! # The directory and the plans' counts stay exact -/

namespace Sys2Proof.Machine

/-! ## Directory, plans and counts, read by number (R1, R2, R3, R40) -/

/-- The records that name a plan. -/
def Engine.namers (e : Engine) (plan : Nat) : Nat := e.accounts.countP (fun a => a.2.plan == plan)

/-- `Engine.plansWf`, said of what the tables hold under each number. -/
structure Engine.Counted (e : Engine) : Prop where
  accounts  : Table.wf e.accounts
  directory : Table.wf e.directory
  plans     : Table.wf e.plans
  record {slot : Nat} {r : Record} (h : e.accounts.get slot = some r) :
    slot < Config.slots ∧ kitInRange r.kit = true ∧ e.directory.get r.kit = some slot
  listed {kit slot : Nat} (h : e.directory.get kit = some slot) : ∃ r, e.accounts.get slot = some r ∧ r.kit = kit
  named {slot : Nat} {r : Record} (h : e.accounts.get slot = some r) : ∃ p, e.plans.get r.plan = some p
  plan {n : Nat} {p : Plan} (h : e.plans.get n = some p) : n < Config.planSlots ∧ p.refCount = e.namers n

theorem Engine.plansWf_iff {e : Engine} : e.plansWf ↔ e.Counted := by
  constructor
  · rintro ⟨⟨accounts, directory, record, listed⟩, plans, plan, named⟩
    rw [Table.forall_mem_iff accounts] at record named
    rw [Table.forall_mem_iff directory] at listed
    rw [Table.forall_mem_iff plans] at plan
    exact
      { accounts, directory, plans
        record := record _ _
        listed := fun h => Option.map_eq_some_iff.1 (listed _ _ h)
        named := fun h => Option.isSome_iff_exists.1 (named _ _ h)
        plan := plan _ _ }
  · intro h
    refine ⟨⟨h.accounts, h.directory, ?_, ?_⟩, h.plans, ?_, ?_⟩
    · exact (Table.forall_mem_iff h.accounts).2 fun _ _ => h.record
    · exact (Table.forall_mem_iff h.directory).2 fun _ _ g => Option.map_eq_some_iff.2 (h.listed g)
    · exact (Table.forall_mem_iff h.plans).2 fun _ _ => h.plan
    · exact (Table.forall_mem_iff h.accounts).2 fun _ _ g => Option.isSome_iff_exists.2 (h.named g)

/-- No kit has two records. -/
theorem Engine.Counted.slot_unique {e : Engine} (h : e.Counted) {slot slot' : Nat} {r r' : Record}
    (g : e.accounts.get slot = some r) (g' : e.accounts.get slot' = some r') (hk : r.kit = r'.kit) : slot = slot' := by
  have := (h.record g).2.2
  rw [hk, (h.record g').2.2] at this
  exact (Option.some.inj this).symm

/-- A plan that no record names has the count 0, and the other way round. -/
theorem Engine.Counted.namers_eq_zero {e : Engine} (h : e.Counted) {n : Nat} :
    e.namers n = 0 ↔ ∀ slot r, e.accounts.get slot = some r → r.plan ≠ n := by
  simp only [Engine.namers, List.countP_eq_zero, beq_iff_eq]
  exact Table.forall_mem_iff h.accounts

theorem Engine.counted_cold : Engine.cold.Counted :=
  Engine.plansWf_iff.1 (by simp [Engine.cold, Engine.plansWf, Engine.directoryWf])

/-! ## Tables whose records evolve in their slots -/

/-- Directory and plans stay, and every record stays in its slot and evolves under its plan. -/
structure Engine.Evolves (e e' : Engine) : Prop where
  directory : e'.directory = e.directory
  plans     : e'.plans = e.plans
  accounts  : Table.wf e'.accounts
  namers (n : Nat) : e'.namers n = e.namers n
  kept {slot : Nat} {r : Record} (h : e.accounts.get slot = some r) : ∃ r', e'.accounts.get slot = some r'
  record {slot : Nat} {r' : Record} (h : e'.accounts.get slot = some r') :
    ∃ r, e.accounts.get slot = some r ∧ ∀ p, e.plans.get r.plan = some p → r.Evolves p r'

theorem Engine.evolves_of_eq {e e' : Engine} (hw : Table.wf e.accounts) (accounts : e'.accounts = e.accounts)
    (directory : e'.directory = e.directory) (plans : e'.plans = e.plans) : e.Evolves e' where
  directory := directory
  plans := plans
  accounts := accounts ▸ hw
  namers n := by rw [Engine.namers, accounts, Engine.namers]
  kept {_ r} h := ⟨r, accounts ▸ h⟩
  record {_ r'} h := ⟨r', accounts ▸ h, fun p _ => .refl p r'⟩

theorem Engine.Evolves.trans {a b c : Engine} (h : a.Evolves b) (g : b.Evolves c) : a.Evolves c where
  directory := g.directory.trans h.directory
  plans := g.plans.trans h.plans
  accounts := g.accounts
  namers n := (g.namers n).trans (h.namers n)
  kept ha := by
    obtain ⟨_, hb⟩ := h.kept ha
    exact g.kept hb
  record hr := by
    obtain ⟨rb, hb, gb⟩ := g.record hr
    obtain ⟨ra, ha, ga⟩ := h.record hb
    refine ⟨ra, ha, fun q hq => ?_⟩
    have hq' : b.plans.get rb.plan = some q := by rw [h.plans, (ga q hq).plan, hq]
    exact (ga q hq).trans (gb q hq')

/-- A record put back into its slot. -/
theorem Engine.evolves_put {e e' : Engine} {slot : Nat} {r r' : Record} (hw : Table.wf e.accounts)
    (h : e.accounts.get slot = some r) (hr : ∀ p, e.plans.get r.plan = some p → r.Evolves p r')
    (hp : r'.plan = r.plan) (accounts : e'.accounts = e.accounts.put slot r') (directory : e'.directory = e.directory)
    (plans : e'.plans = e.plans) : e.Evolves e' where
  directory := directory
  plans := plans
  accounts := accounts ▸ Table.wf_put _ _ hw
  namers n := by
    have := Table.countP_put_of_get (q := fun a => a.2.plan == n) (v' := r') hw h
    simp only [hp] at this
    simp only [Engine.namers, accounts]
    omega
  kept {i r₀} g := by
    rw [accounts, Table.get_put]
    split
    · exact ⟨_, rfl⟩
    · exact ⟨r₀, g⟩
  record {i r₁} g := by
    rw [accounts, Table.get_put] at g
    split at g
    next same =>
      cases g
      exact ⟨r, same ▸ h, hr⟩
    · exact ⟨r₁, g, fun p _ => .refl p r₁⟩

/-- The directory and the counts of such tables stay exact. -/
theorem Engine.Evolves.counted {e e' : Engine} (h : e.Evolves e') (hc : e.Counted) : e'.Counted where
  accounts := h.accounts
  directory := h.directory ▸ hc.directory
  plans := h.plans ▸ hc.plans
  record g := by
    obtain ⟨r, hr, evolves⟩ := h.record g
    obtain ⟨p, hp⟩ := hc.named hr
    rw [h.directory, (evolves p hp).kit]
    exact hc.record hr
  listed g := by
    obtain ⟨r, hr, hk⟩ := hc.listed (h.directory ▸ g)
    obtain ⟨r', hr'⟩ := h.kept hr
    obtain ⟨r₀, hr₀, evolves⟩ := h.record hr'
    obtain rfl := Option.some.inj (hr.symm.trans hr₀)
    obtain ⟨p, hp⟩ := hc.named hr
    exact ⟨r', hr', (evolves p hp).kit.trans hk⟩
  named g := by
    obtain ⟨r, hr, evolves⟩ := h.record g
    obtain ⟨p, hp⟩ := hc.named hr
    exact ⟨p, by rw [h.plans, (evolves p hp).plan, hp]⟩
  plan g := by
    rw [h.namers]
    exact hc.plan (h.plans ▸ g)

/-! ### The commands that leave every record in its slot and under its plan -/

/-- The tables of records, kits and plans are the same. -/
def Engine.SameRecords (e e' : Engine) : Prop :=
  e'.accounts = e.accounts ∧ e'.directory = e.directory ∧ e'.plans = e.plans

theorem Engine.sameRecords_refl (e : Engine) : e.SameRecords e := ⟨rfl, rfl, rfl⟩

theorem Engine.sameRecords_onAgent {e : Engine} {agent : Nat} {good : Bool} {work : Agent → AgentWorked}
    (h : ∀ a, e.SameRecords (work a).1) : e.SameRecords (e.onAgent agent good work).1 := by
  unfold Engine.onAgent
  split
  · exact e.sameRecords_refl
  split
  · exact e.sameRecords_refl
  · exact h _

/-- The requests on agents touch neither records, directory nor plans. -/
theorem Engine.AgentWork.sameRecords {e e' : Engine} (h : e.AgentWork e') : e.SameRecords e' := by
  have put (agent : Nat) (a : Agent) : e.SameRecords (e.putAgent agent a) := ⟨rfl, rfl, rfl⟩
  cases h with
  | openAgent agent f =>
    unfold Engine.openAgent
    split
    · exact e.sameRecords_refl
    split
    · exact e.sameRecords_refl
    · exact put _ _
  | amendAgent agent changes f => exact Engine.sameRecords_onAgent fun _ => put _ _
  | setBarred agent barred =>
    refine Engine.sameRecords_onAgent fun a => ?_
    split
    · exact e.sameRecords_refl
    · exact put _ _
  | closeAgent agent =>
    refine Engine.sameRecords_onAgent fun a => ?_
    split
    · exact e.sameRecords_refl
    · exact ⟨rfl, rfl, rfl⟩
  | clearWatermark agent => exact Engine.sameRecords_onAgent fun _ => put _ _

theorem Engine.evolves_of_yields {e e' : Engine} {kit : Nat} {w : Work} (hw : Table.wf e.accounts)
    (found : e.find kit = .found w) (h : w.Yields e') : e.Evolves e' := by
  obtain ⟨w', leads, rfl⟩ := h
  obtain ⟨rfl, -, hr, hp⟩ := Engine.find_spec found
  refine Engine.evolves_put (r' := w'.record) hw hr (fun p g => ?_) leads.record.plan ?_ leads.directory leads.plans
  · obtain rfl := Option.some.inj (hp.symm.trans g)
    exact leads.record
  · rw [Work.commit_accounts, leads.accounts, leads.slot]

theorem Work.Served.yields {w : Work} {t : Nat} {e : Engine} (h : w.Served t e) : w.Yields e := by
  have current := w.leads_current t
  cases h with
  | current => exact current.yields
  | suspend reason => exact current.yields_of (Work.yields_suspend _ reason)
  | resume => exact current.yields_of (Work.yields_resume _ t)
  | setKey key => exact current.yields_of (Work.yields_setKey _ key)
  | pay calendar amount => exact current.yields_of (Work.yields_pay _ calendar amount t)
  | confirm reference => exact current.yields_of (Work.yields_confirm _ reference)
  | reverse reference => exact current.yields_of (Work.yields_reverse _ reference t)
  | goodCheck m n calendar => exact (w.leads_goodCheck m n calendar t).yields
  | badCheck => exact w.leads_badCheck.yields
  | topUp m a calendar => exact (current.trans (Work.leads_topUp _ m a calendar t)).yields

theorem Record.evolves_clearNotices (p : Plan) (r : Record) : r.Evolves p { r with notices := .clear } :=
  ⟨rfl, rfl, le_refl _, fun _ => le_refl _, fun _ => le_refl _, id, id, id, id⟩

theorem Engine.evolves_clearNotices {e : Engine} (hc : e.Counted) (kit : Nat) : e.Evolves (e.clearNotices kit) := by
  unfold Engine.clearNotices Engine.recordOf
  cases hd : e.directory.get kit with
  | none => exact Engine.evolves_of_eq hc.accounts rfl rfl rfl
  | some slot =>
    obtain ⟨r, hr, -⟩ := hc.listed hd
    simp only [hr, Option.map_some]
    exact Engine.evolves_put hc.accounts hr (fun p _ => r.evolves_clearNotices p) rfl rfl rfl rfl

theorem Engine.evolves_foldl_clearNotices {e : Engine} (hc : e.Counted) (kits : List Nat) :
    e.Evolves (kits.foldl Engine.clearNotices e) := by
  induction kits generalizing e with
  | nil => exact Engine.evolves_of_eq hc.accounts rfl rfl rfl
  | cons kit rest ih =>
    have first := Engine.evolves_clearNotices hc kit
    exact first.trans (ih (first.counted hc))

theorem Engine.evolves_takeNotices {e : Engine} (hc : e.Counted) (count : Nat) : e.Evolves (e.takeNotices count).1 := by
  unfold Engine.takeNotices
  split
  · exact Engine.evolves_of_eq hc.accounts rfl rfl rfl
  · have h := Engine.evolves_foldl_clearNotices hc (e.notices.take count)
    exact ⟨h.directory, h.plans, h.accounts, h.namers, h.kept, h.record⟩

/-! ### The requests on plans -/

theorem Engine.definePlan_cases (e : Engine) (n : Nat) (p : PlanNums) :
    (e.definePlan n p).1 = e ∨ n < Config.planSlots ∧ e.plans.get n = none ∧
      (e.definePlan n p).1 = { e with plans := e.plans.put n (p.plan 0) } := by
  unfold Engine.definePlan
  split
  · exact .inl rfl
  next range =>
  split
  · exact .inl rfl
  next free =>
    refine .inr ⟨?_, by simpa using free, rfl⟩
    simp only [Bool.not_eq_true', Bool.not_eq_false, Bool.and_eq_true, planInRange, decide_eq_true_eq] at range
    exact range.1.1

/-- AMEND PLAN keeps the count, and the price of a plan that a record names (R44, R45). -/
theorem Engine.amendPlan_cases (e : Engine) (n changes : Nat) (p : PlanNums) :
    (e.amendPlan n changes p).1 = e ∨ ∃ held new, e.plans.get n = some held ∧ new.refCount = held.refCount ∧
      (0 < held.refCount → new.price = held.price) ∧
      (e.amendPlan n changes p).1 = { e with plans := e.plans.put n new } := by
  unfold Engine.amendPlan
  split
  · exact .inl rfl
  split
  · exact .inl rfl
  next held defined =>
  dsimp only
  split
  · exact .inl rfl
  split
  · exact .inl rfl
  next inUse =>
    refine .inr ⟨held, held.amended changes p, defined, rfl, fun used => ?_, rfl⟩
    simp only [used, decide_true, Bool.true_and, Plan.restrictedChange, Bool.not_eq_true, Bool.or_eq_false_iff,
      bne_eq_false_iff_eq] at inUse
    exact inUse.1.1.1.1.symm

theorem Engine.releasePlan_cases (e : Engine) (n : Nat) :
    (e.releasePlan n).1 = e ∨ ∃ p, e.plans.get n = some p ∧ p.refCount = 0 ∧
      (e.releasePlan n).1 = { e with plans := e.plans.erase n } := by
  unfold Engine.releasePlan
  split
  · exact .inl rfl
  split
  · exact .inl rfl
  next p defined =>
  split
  · exact .inl rfl
  next unused => exact .inr ⟨p, defined, Nat.eq_zero_of_not_pos unused, rfl⟩

/-- No record names a plan that is not DEFINED or whose count is 0. -/
theorem Engine.Counted.plan_ne {e : Engine} (hc : e.Counted) {n slot : Nat} {r : Record}
    (h : ∀ p, e.plans.get n = some p → p.refCount = 0) (g : e.accounts.get slot = some r) : r.plan ≠ n := by
  rintro rfl
  obtain ⟨p, hp⟩ := hc.named g
  exact hc.namers_eq_zero.1 ((hc.plan hp).2.symm.trans (h p hp)) slot r g rfl

/-- Writing a plan whose count is that of the records which name it. -/
theorem Engine.Counted.putPlan {e : Engine} (hc : e.Counted) {n : Nat} {p : Plan} (hn : n < Config.planSlots)
    (hp : p.refCount = e.namers n) : ({ e with plans := e.plans.put n p } : Engine).Counted where
  accounts := hc.accounts
  directory := hc.directory
  plans := Table.wf_put _ _ hc.plans
  record := hc.record
  listed := hc.listed
  named g := by
    rw [Table.get_put]
    split
    · exact ⟨p, rfl⟩
    · exact hc.named g
  plan {m q} g := by
    rw [Table.get_put] at g
    split at g
    · cases g
      subst_vars
      exact ⟨hn, hp⟩
    · exact hc.plan g

theorem Engine.counted_definePlan {e : Engine} (hc : e.Counted) (n : Nat) (p : PlanNums) :
    (e.definePlan n p).1.Counted := by
  obtain h | ⟨range, free, h⟩ := e.definePlan_cases n p
  · rwa [h]
  · rw [h]
    refine hc.putPlan range (hc.namers_eq_zero.2 fun slot r g => ?_).symm
    exact hc.plan_ne (by simp [free]) g

theorem Engine.counted_amendPlan {e : Engine} (hc : e.Counted) (n changes : Nat) (p : PlanNums) :
    (e.amendPlan n changes p).1.Counted := by
  obtain h | ⟨held, new, defined, count, -, h⟩ := e.amendPlan_cases n changes p
  · rwa [h]
  · rw [h]
    obtain ⟨range, exact'⟩ := hc.plan defined
    exact hc.putPlan range (count.trans exact')

theorem Engine.counted_releasePlan {e : Engine} (hc : e.Counted) (n : Nat) : (e.releasePlan n).1.Counted := by
  obtain h | ⟨p, defined, unused, h⟩ := e.releasePlan_cases n
  · rwa [h]
  rw [h]
  exact
    { accounts := hc.accounts
      directory := hc.directory
      plans := Table.wf_erase _ hc.plans
      record := hc.record
      listed := hc.listed
      named := fun g => by
        rw [Table.get_erase, if_neg (hc.plan_ne (fun q hq => by rwa [Option.some.inj (hq.symm.trans defined)]) g)]
        exact hc.named g
      plan := fun {m q} g => by
        rw [Table.get_erase] at g
        split at g
        · cases g
        · exact hc.plan g }

/-! ### A plan's count (R40) -/

theorem Engine.countPlan_plans (e : Engine) (n : Nat) (f : Nat → Nat) :
    e.countPlan n f = { e with plans := (e.countPlan n f).plans } := by
  unfold Engine.countPlan
  split <;> rfl

theorem Engine.countPlan_get (e : Engine) (n m : Nat) (f : Nat → Nat) :
    (e.countPlan n f).plans.get m =
      if m = n then (e.plans.get m).map (fun p => { p with refCount := f p.refCount }) else e.plans.get m := by
  unfold Engine.countPlan
  by_cases h : m = n
  · subst h
    cases g : e.plans.get m <;> simp [g, Table.get_put_same]
  · cases g : e.plans.get n <;> simp [h, Table.get_put_other]

/-- The plans after a change of a count depend on the plans alone. -/
theorem Engine.countPlan_congr {e e' : Engine} (h : e'.plans = e.plans) (n : Nat) (f : Nat → Nat) :
    (e'.countPlan n f).plans = (e.countPlan n f).plans := by
  unfold Engine.countPlan
  rw [h]
  split
  · rfl
  · exact h

theorem Engine.wf_countPlan {e : Engine} (h : Table.wf e.plans) (n : Nat) (f : Nat → Nat) :
    Table.wf (e.countPlan n f).plans := by
  unfold Engine.countPlan
  split
  · exact Table.wf_put _ _ h
  · exact h

/-- Only the count of a plan changes. -/
theorem Engine.countPlan_spec {e : Engine} {n m : Nat} {f : Nat → Nat} {q : Plan}
    (h : (e.countPlan n f).plans.get m = some q) :
    ∃ p, e.plans.get m = some p ∧ q.price = p.price ∧ q.refCount = if m = n then f p.refCount else p.refCount := by
  rw [Engine.countPlan_get] at h
  split at h
  next same =>
    obtain ⟨p, hp, rfl⟩ := Option.map_eq_some_iff.1 h
    exact ⟨p, hp, rfl, by rw [if_pos same]⟩
  next other => exact ⟨q, h, rfl, by rw [if_neg other]⟩

theorem Engine.countPlan_defined {e : Engine} {n m : Nat} {f : Nat → Nat} {p : Plan} (h : e.plans.get m = some p) :
    ∃ q, (e.countPlan n f).plans.get m = some q := by
  rw [Engine.countPlan_get]
  split
  · exact ⟨_, by rw [h]; rfl⟩
  · exact ⟨p, h⟩

/-! ### Enrolment (R13, R14) -/

/-- ENROL KIT leaves the tables, or writes the new record into a free slot of a part whose directory has no such kit. -/
theorem Engine.enrolKit_cases {e : Engine} (hw : Table.wf e.accounts) (kit plan : Nat) (key : Word32) (base : Nat) :
    (e.enrolKit kit plan key base).1 = e ∨ ∃ slot,
      kitInRange kit = true ∧ base < Config.max32 ∧ (e.plans.get plan).isSome = true ∧ e.directory.get kit = none ∧
      slot < Config.slots ∧ e.accounts.get slot = none ∧
      (e.enrolKit kit plan key base).1 = { e.countPlan plan (· + 1) with
        accounts := e.accounts.put slot (.enrolled kit plan key base), directory := e.directory.put kit slot } := by
  unfold Engine.enrolKit
  split
  · exact .inl rfl
  next range =>
  split
  · exact .inl rfl
  next defined =>
  split
  · exact .inl rfl
  next fresh =>
  dsimp only
  split
  · exact .inl rfl
  next room =>
    simp only [Bool.not_eq_true', Bool.not_eq_false, Bool.and_eq_true, decide_eq_true_eq] at range
    refine .inr ⟨_, range.1.1, range.2, by simpa [Option.isSome_iff_ne_none] using defined,
      by simpa using fresh, Nat.lt_of_not_le room, ?_, rfl⟩
    exact (Table.lowestFree_spec 0 hw fun _ _ => Nat.zero_le _).2.1

theorem Engine.counted_enrolKit {e : Engine} (hc : e.Counted) (kit plan : Nat) (key : Word32) (base : Nat) :
    (e.enrolKit kit plan key base).1.Counted := by
  obtain h | ⟨slot, range, -, defined, fresh, bound, free, h⟩ := e.enrolKit_cases hc.accounts kit plan key base
  · rwa [h]
  rw [h]
  exact
    { accounts := Table.wf_put _ _ hc.accounts
      directory := Table.wf_put _ _ hc.directory
      plans := Engine.wf_countPlan hc.plans _ _
      record := fun {i r} g => by
        rw [Table.get_put] at g
        split at g
        next same =>
          cases g
          subst same
          exact ⟨bound, range, Table.get_put_same _ _ _⟩
        next =>
          obtain ⟨hi, hk, hd⟩ := hc.record g
          refine ⟨hi, hk, ?_⟩
          rw [Table.get_put_other (by rintro rfl; rw [fresh] at hd; cases hd), hd]
      listed := fun {k i} g => by
        rw [Table.get_put] at g
        split at g
        next same =>
          cases g
          exact ⟨_, Table.get_put_same _ _ _, same.symm⟩
        next =>
          obtain ⟨r, hr, hk⟩ := hc.listed g
          exact ⟨r, by rw [Table.get_put_other (by rintro rfl; rw [free] at hr; cases hr), hr], hk⟩
      named := fun {i r} g => by
        rw [Table.get_put] at g
        split at g
        next =>
          cases g
          obtain ⟨p, hp⟩ := Option.isSome_iff_exists.1 defined
          exact Engine.countPlan_defined hp
        next =>
          obtain ⟨p, hp⟩ := hc.named g
          exact Engine.countPlan_defined hp
      plan := fun {m q} g => by
        obtain ⟨p, hp, -, hq⟩ := Engine.countPlan_spec g
        obtain ⟨hm, count⟩ := hc.plan hp
        refine ⟨hm, ?_⟩
        have := Table.countP_put_of_free (q := fun a => a.2.plan == m) (v := Record.enrolled kit plan key base) free
        simp only [Engine.namers, Record.enrolled, beq_iff_eq] at this count ⊢
        rw [hq, this, count]
        by_cases hmp : m = plan
        · simp [hmp]
        · simp [hmp, Ne.symm hmp] }

/-! ### MOVE PLAN (R19, R20) -/

/-- The record under its new plan, the counts moved by one (R20 steps 1 and 2). -/
def Work.moved (w : Work) (plan : Nat) (new : Plan) : Work :=
  { engine := (w.engine.countPlan w.record.plan (· - 1)).countPlan plan (· + 1), slot := w.slot, plan := new
    record := { w.record with plan := plan } }

theorem Work.move_owned {w : Work} (h : w.record.state = .owned) (plan : Nat) (new : Plan) (t : Nat) :
    w.move plan new t = w.refuse .wrongState :=
  if_pos h

theorem Work.move_pending {w : Work} (h : w.record.state ≠ .owned) (hp : w.record.pending ≠ []) (plan : Nat)
    (new : Plan) (t : Nat) : w.move plan new t = w.refuse .entriesPending :=
  (if_neg h).trans (if_pos (by simpa using hp))

theorem Work.move_held {w : Work} (h : w.record.state ≠ .owned) (hp : w.record.pending = []) (new : Plan) (t : Nat) :
    w.move w.record.plan new t = w.done [stateField (some w.record.state)] :=
  (if_neg h).trans ((if_neg (by simp [hp])).trans (if_pos rfl))

theorem Work.move_moved {w : Work} {plan : Nat} (h : w.record.state ≠ .owned) (hp : w.record.pending = [])
    (hn : plan ≠ w.record.plan) (new : Plan) (t : Nat) :
    w.move plan new t =
      ((w.moved plan new).settleOnPlan t).done [stateField (some ((w.moved plan new).settleOnPlan t).record.state)] :=
  (if_neg h).trans ((if_neg (by simp [hp])).trans (if_neg hn))

/-- What MOVE PLAN leaves of the tables: the record put back as it was, or settled on its new plan. -/
theorem Work.move_cases (w : Work) (plan : Nat) (new : Plan) (t : Nat) :
    (w.move plan new t).1 = w.commit ∨ w.record.state ≠ .owned ∧ plan ≠ w.record.plan ∧
      (w.move plan new t).1 = ((w.moved plan new).settleOnPlan t).commit := by
  by_cases h : w.record.state = .owned
  · exact .inl (by rw [Work.move_owned h]; rfl)
  by_cases hp : w.record.pending = []
  · by_cases hn : plan = w.record.plan
    · subst hn
      exact .inl (by rw [Work.move_held h hp]; rfl)
    · exact .inr ⟨h, hn, by rw [Work.move_moved h hp hn]; rfl⟩
  · exact .inl (by rw [Work.move_pending h hp]; rfl)

theorem Work.leads_settleOnPlan (w : Work) (t : Nat) : w.Leads (w.settleOnPlan t) := by
  unfold Work.settleOnPlan
  split
  next reaches =>
    simp only [Bool.and_eq_true, decide_eq_true_eq] at reaches
    exact Work.leads_becomeOwned reaches.1
  split
  · exact .refl w
  · exact (((w.leads_recompute t).trans (Work.leads_raiseIf _ _ _)).trans (Work.leads_remind _ t)).trans
      (Work.leads_rekey _)

/-- Whatever the confirmed total under the old plan was, the record keeps to R10 under the new one. -/
theorem Work.owns_settleOnPlan {w : Work} (h : w.record.state ≠ .owned) (t : Nat) :
    (w.settleOnPlan t).record.owns w.plan := by
  by_cases reaches : 0 < w.plan.price ∧ w.plan.price ≤ w.record.confirmed
  · have : w.settleOnPlan t = w.becomeOwned := if_pos (by simpa using reaches)
    rw [this]
    exact ⟨fun _ => le_refl _, fun _ => ⟨reaches.1, rfl⟩, fun _ => rfl⟩
  · exact (w.leads_settleOnPlan t).record.owns
      (Record.owns_of_below h fun hp => Nat.lt_of_not_le fun g => reaches ⟨hp, g⟩)

/-- Tables in which one record has been written under another plan, the two counts moved by one (R20). -/
theorem Engine.Counted.replan {e e' : Engine} (hc : e.Counted) {slot : Nat} {r r' : Record} {new : Plan}
    (hr : e.accounts.get slot = some r) (kit : r'.kit = r.kit) (hn : r'.plan ≠ r.plan)
    (defined : e.plans.get r'.plan = some new) (accounts : e'.accounts = e.accounts.put slot r')
    (directory : e'.directory = e.directory)
    (plans : e'.plans = ((e.countPlan r.plan (· - 1)).countPlan r'.plan (· + 1)).plans) : e'.Counted where
  accounts := accounts ▸ Table.wf_put _ _ hc.accounts
  directory := directory ▸ hc.directory
  plans := plans ▸ Engine.wf_countPlan (Engine.wf_countPlan hc.plans _ _) _ _
  record {i r₁} g := by
    rw [directory]
    rw [accounts, Table.get_put] at g
    split at g
    next same =>
      cases g
      rw [kit, same]
      exact hc.record hr
    · exact hc.record g
  listed {k i} g := by
    obtain ⟨r₁, h₁, hk⟩ := hc.listed (directory ▸ g)
    rw [accounts, Table.get_put]
    split
    next same =>
      obtain rfl := Option.some.inj (hr.symm.trans (same ▸ h₁))
      exact ⟨r', rfl, kit.trans hk⟩
    · exact ⟨r₁, h₁, hk⟩
  named {i r₁} g := by
    have : ∃ p, e.plans.get r₁.plan = some p := by
      rw [accounts, Table.get_put] at g
      split at g
      · cases g
        exact ⟨new, defined⟩
      · exact hc.named g
    obtain ⟨p, hp⟩ := this
    obtain ⟨q, hq⟩ := Engine.countPlan_defined (n := r.plan) (f := (· - 1)) hp
    rw [plans]
    exact Engine.countPlan_defined hq
  plan {m q} g := by
    rw [plans] at g
    obtain ⟨q', hq', -, count'⟩ := Engine.countPlan_spec g
    obtain ⟨p, hp, -, count⟩ := Engine.countPlan_spec hq'
    obtain ⟨hm, hpc⟩ := hc.plan hp
    refine ⟨hm, ?_⟩
    have := Table.countP_put_of_get (q := fun a => a.2.plan == m) (v' := r') hc.accounts hr
    simp only [Engine.namers, accounts, beq_iff_eq] at this hpc ⊢
    rw [count', count]
    by_cases h1 : m = r'.plan
    · subst h1
      simp only [hn, hn.symm, if_true, if_false] at this ⊢
      omega
    · by_cases h2 : m = r.plan
      · subst h2
        simp only [hn, hn.symm, if_true, if_false] at this ⊢
        omega
      · simp only [h1, h2, Ne.symm h1, Ne.symm h2, if_false] at this ⊢
        omega

/-- A record settled on a new plan: the tables, and the record itself. -/
theorem Work.settledOnPlan_spec {e : Engine} {kit plan t : Nat} {w : Work} (new : Plan) (found : e.find kit = .found w) :
    let w' := ((w.current t).moved plan new).settleOnPlan t
    w'.commit.accounts = e.accounts.put w.slot w'.record ∧ w'.commit.directory = e.directory ∧
    w'.commit.plans = ((e.countPlan w.record.plan (· - 1)).countPlan plan (· + 1)).plans ∧
    Record.Evolves new { (w.current t).record with plan := plan } w'.record := by
  intro w'
  obtain ⟨rfl, -, -, -⟩ := Engine.find_spec found
  have cur := w.leads_current t
  have settled := ((w.current t).moved plan new).leads_settleOnPlan t
  have counted : ((w.current t).moved plan new).engine =
      { (w.current t).engine with plans := ((w.current t).moved plan new).engine.plans } := by
    rw [Work.moved, Engine.countPlan_plans, Engine.countPlan_plans]
  refine ⟨?_, ?_, ?_, settled.record⟩
  · rw [Work.commit_accounts, settled.accounts, settled.slot, counted, cur.accounts]
    exact congrArg (fun slot => w.engine.accounts.put slot w'.record) cur.slot
  · rw [Work.commit_directory, settled.directory, counted, cur.directory]
  · rw [Work.commit_plans, settled.plans, ← cur.record.plan]
    exact Engine.countPlan_congr (Engine.countPlan_congr cur.plans _ _) _ _

theorem Engine.counted_move {e : Engine} (hc : e.Counted) {kit plan : Nat} {w : Work} {new : Plan}
    (found : e.find kit = .found w) (defined : e.plans.get plan = some new) (t : Nat) :
    ((w.current t).move plan new t).1.Counted := by
  obtain ⟨-, -, hr, -⟩ := Engine.find_spec found
  have cur := w.leads_current t
  obtain h | ⟨-, hn, h⟩ := (w.current t).move_cases plan new t
  · rw [h]
    exact (Engine.evolves_of_yields hc.accounts found cur.yields).counted hc
  · rw [h]
    obtain ⟨accounts, directory, plans, evolves⟩ := Work.settledOnPlan_spec (plan := plan) (t := t) new found
    have number : (((w.current t).moved plan new).settleOnPlan t).record.plan = plan := evolves.plan
    rw [cur.record.plan] at hn
    exact hc.replan hr (evolves.kit.trans cur.record.kit) (by rwa [number]) (by rwa [number]) accounts directory
      (by rwa [number])

/-! ### RETIRE KIT (R21, R22) -/

theorem Work.forceReverse_eq (w : Work) (en : Entry) : w.forceReverse en = w.takeEntry en (fun a => a.unsettle en.amount) :=
  rfl

/-- The entries that FORCE reverses leave everything but themselves and their agents (R22). -/
theorem Work.same_forceReverses (w : Work) (entries : List Entry) : w.Same (entries.foldl Work.forceReverse w) :=
  Work.same_foldl (fun w en => w.same_takeEntry en _) w

theorem Work.retire_refused {w : Work} (hp : w.record.pending ≠ []) : w.retire false = w.refuse .entriesPending :=
  if_pos (by simpa using hp)

theorem Work.retire_retired {w : Work} {force : Bool} (h : force = true ∨ w.record.pending = []) :
    w.retire force = ((w.record.pending.foldl Work.forceReverse w).remove, .done,
      [pairField w.record.notices.bits, wordField w.record.offer.number, byteField w.record.pending.length,
        moneyField (amountSum w.record.pending)]) :=
  if_neg (by rcases h with h | h <;> simp [h])

/-- What RETIRE KIT leaves of the tables: the record put back, or removed. -/
theorem Work.retire_cases (w : Work) (force : Bool) :
    (w.retire force).1 = w.commit ∨ (w.retire force).1 = (w.record.pending.foldl Work.forceReverse w).remove := by
  cases force
  · by_cases hp : w.record.pending = []
    · exact .inr (by rw [Work.retire_retired (.inr hp)])
    · exact .inl (by rw [Work.retire_refused hp]; rfl)
  · exact .inr (by rw [Work.retire_retired (.inl rfl)])

/-- Tables without one record. -/
theorem Work.removed_spec {e : Engine} {kit t : Nat} {w : Work} (found : e.find kit = .found w) (entries : List Entry) :
    let e' := (entries.foldl Work.forceReverse (w.current t)).remove
    e'.accounts = e.accounts.erase w.slot ∧ e'.directory = e.directory.erase w.record.kit ∧
    e'.plans = (e.countPlan w.record.plan (· - 1)).plans := by
  obtain ⟨rfl, -, -, -⟩ := Engine.find_spec found
  have same := (w.same_current t).trans (Work.same_forceReverses _ entries)
  simp only [Work.remove]
  rw [Engine.countPlan_plans]
  dsimp only
  rw [same.accounts, same.slot, same.directory, same.kit, same.planNumber]
  exact ⟨rfl, rfl, Engine.countPlan_congr same.plans _ _⟩

/-- Tables from which one record has been taken, its plan's count lowered by one (R21). -/
theorem Engine.Counted.unlist {e e' : Engine} (hc : e.Counted) {slot : Nat} {r : Record}
    (hr : e.accounts.get slot = some r) (accounts : e'.accounts = e.accounts.erase slot)
    (directory : e'.directory = e.directory.erase r.kit) (plans : e'.plans = (e.countPlan r.plan (· - 1)).plans) :
    e'.Counted where
  accounts := accounts ▸ Table.wf_erase _ hc.accounts
  directory := directory ▸ Table.wf_erase _ hc.directory
  plans := plans ▸ Engine.wf_countPlan hc.plans _ _
  record {i r₁} g := by
    rw [accounts, Table.get_erase] at g
    split at g
    · cases g
    next other =>
      obtain ⟨hi, hk, hd⟩ := hc.record g
      refine ⟨hi, hk, ?_⟩
      rw [directory, Table.get_erase, if_neg fun same => other (hc.slot_unique g hr same), hd]
  listed {k i} g := by
    rw [directory, Table.get_erase] at g
    split at g
    · cases g
    next other =>
      obtain ⟨r₁, h₁, hk⟩ := hc.listed g
      refine ⟨r₁, ?_, hk⟩
      rw [accounts, Table.get_erase, if_neg, h₁]
      rintro rfl
      obtain rfl := Option.some.inj (hr.symm.trans h₁)
      exact other hk.symm
  named {i r₁} g := by
    rw [accounts, Table.get_erase] at g
    split at g
    · cases g
    · obtain ⟨p, hp⟩ := hc.named g
      rw [plans]
      exact Engine.countPlan_defined hp
  plan {m q} g := by
    obtain ⟨p, hp, -, count⟩ := Engine.countPlan_spec (plans ▸ g)
    obtain ⟨hm, hpc⟩ := hc.plan hp
    refine ⟨hm, ?_⟩
    have := Table.countP_erase_of_get (q := fun a => a.2.plan == m) hc.accounts hr
    simp only [Engine.namers, accounts, beq_iff_eq] at this hpc ⊢
    rw [count]
    by_cases h : m = r.plan
    · simp only [h, if_true] at this hpc ⊢
      omega
    · simp only [h, Ne.symm h, if_false] at this ⊢
      omega

theorem Engine.counted_retire {e : Engine} (hc : e.Counted) {kit : Nat} {w : Work} (found : e.find kit = .found w)
    (force : Bool) (t : Nat) : ((w.current t).retire force).1.Counted := by
  obtain ⟨-, -, hr, -⟩ := Engine.find_spec found
  obtain h | h := (w.current t).retire_cases force
  · rw [h]
    exact (Engine.evolves_of_yields hc.accounts found (w.leads_current t).yields).counted hc
  · rw [h]
    obtain ⟨accounts, directory, plans⟩ := Work.removed_spec (t := t) found (w.current t).record.pending
    exact hc.unlist hr accounts directory plans

/-! ### Every command -/

theorem Engine.Change.counted {e e' : Engine} {t : Nat} (h : e.Change t e') (hc : e.Counted) : e'.Counted := by
  cases h with
  | same => exact hc
  | cold => exact Engine.counted_cold
  | agents h =>
    obtain ⟨accounts, directory, plans⟩ := h.sameRecords
    exact (Engine.evolves_of_eq hc.accounts accounts directory plans).counted hc
  | definePlan plan p => exact Engine.counted_definePlan hc plan p
  | amendPlan plan changes p => exact Engine.counted_amendPlan hc plan changes p
  | releasePlan plan => exact Engine.counted_releasePlan hc plan
  | enrolKit kit plan key base => exact Engine.counted_enrolKit hc kit plan key base
  | takeNotices count => exact (Engine.evolves_takeNotices hc count).counted hc
  | served found h => exact (Engine.evolves_of_yields hc.accounts found h.yields).counted hc
  | move found defined => exact Engine.counted_move hc found defined t
  | retire found force => exact Engine.counted_retire hc found force t

/-- Settles O52: each change that a command can make of the tables keeps directory and counts exact. -/
theorem directoryAndPlanCountsStayExact : Obligations.DirectoryAndPlanCountsStayExact := by
  intro c s s' hw h
  exact Engine.plansWf_iff.2 ((exec_change h).counted (Engine.plansWf_iff.1 hw))

end Sys2Proof.Machine

/-! # Records stay sound, and never go back -/

namespace Sys2Proof.Machine

/-! ## Sound records (R4, R5, R7, R10, R124) -/

/-- Every record is well formed and keeps to R10 under its plan. -/
def Engine.Sound (e : Engine) : Prop :=
  ∀ slot r p, e.accounts.get slot = some r → e.plans.get r.plan = some p → r.wf ∧ r.owns p

theorem Engine.ownersWf_recordsWf_iff {e : Engine} : e.ownersWf ∧ e.recordsWf ↔ e.Counted ∧ e.Sound := by
  constructor
  · rintro ⟨⟨counted, owners⟩, records⟩
    refine ⟨Engine.plansWf_iff.1 counted, fun slot r p hr hp => ⟨records _ (Table.mem_of_get hr), ?_⟩⟩
    exact owners _ (Table.mem_of_get hr) _ (Table.mem_of_get hp) rfl
  · rintro ⟨counted, sound⟩
    refine ⟨⟨Engine.plansWf_iff.2 counted, fun a ha q hq named => ?_⟩, fun a ha => ?_⟩
    · have hp := Table.get_of_mem counted.plans hq
      exact (sound _ _ _ (Table.get_of_mem counted.accounts ha) (named ▸ hp)).2
    · have hr := Table.get_of_mem counted.accounts ha
      obtain ⟨p, hp⟩ := counted.named hr
      exact (sound _ _ _ hr hp).1

/-- R10 looks at the price alone of a plan. -/
theorem Record.owns_of_price {r : Record} {p q : Plan} (h : q.price = p.price) : r.owns q ↔ r.owns p := by
  simp only [Record.owns, h]

theorem Engine.Evolves.sound {e e' : Engine} (h : e.Evolves e') (hc : e.Counted) (hs : e.Sound) : e'.Sound := by
  intro slot r' p' hr' hp'
  obtain ⟨r, hr, evolves⟩ := h.record hr'
  obtain ⟨p, hp⟩ := hc.named hr
  have ev := evolves p hp
  rw [h.plans, ev.plan, hp] at hp'
  obtain rfl := Option.some.inj hp'
  obtain ⟨wf, owns⟩ := hs slot r p hr hp
  exact ⟨ev.wf wf, ev.owns owns⟩

/-- Tables whose records stand as they were, and whose plans have kept the prices that matter to them. -/
theorem Engine.Sound.of_prices {e e' : Engine} (hs : e.Sound) (accounts : e'.accounts = e.accounts)
    (prices : ∀ slot r q, e.accounts.get slot = some r → e'.plans.get r.plan = some q →
      ∃ p, e.plans.get r.plan = some p ∧ q.price = p.price) : e'.Sound := by
  intro slot r q hr hq
  rw [accounts] at hr
  obtain ⟨p, hp, price⟩ := prices slot r q hr hq
  obtain ⟨wf, owns⟩ := hs slot r p hr hp
  exact ⟨wf, (Record.owns_of_price price).2 owns⟩

theorem Engine.sound_definePlan {e : Engine} (hc : e.Counted) (hs : e.Sound) (n : Nat) (p : PlanNums) :
    (e.definePlan n p).1.Sound := by
  obtain h | ⟨-, free, h⟩ := e.definePlan_cases n p
  · rwa [h]
  rw [h]
  refine hs.of_prices rfl fun slot r q hr hq => ⟨q, ?_, rfl⟩
  rwa [Table.get_put_other (hc.plan_ne (by simp [free]) hr)] at hq

theorem Engine.sound_amendPlan {e : Engine} (hc : e.Counted) (hs : e.Sound) (n changes : Nat) (p : PlanNums) :
    (e.amendPlan n changes p).1.Sound := by
  obtain h | ⟨held, new, defined, -, price, h⟩ := e.amendPlan_cases n changes p
  · rwa [h]
  rw [h]
  refine hs.of_prices rfl fun slot r q hr hq => ?_
  rw [Table.get_put] at hq
  split at hq
  next same =>
    cases hq
    refine ⟨held, same ▸ defined, price (Nat.pos_of_ne_zero fun unused => ?_)⟩
    exact hc.plan_ne (fun p hp => by rwa [Option.some.inj (hp.symm.trans defined)]) hr same
  · exact ⟨q, hq, rfl⟩

theorem Engine.sound_releasePlan {e : Engine} (hs : e.Sound) (n : Nat) : (e.releasePlan n).1.Sound := by
  obtain h | ⟨-, -, -, h⟩ := e.releasePlan_cases n
  · rwa [h]
  rw [h]
  refine hs.of_prices rfl fun slot r q hr hq => ⟨q, ?_, rfl⟩
  rw [Table.get_erase] at hq
  split at hq
  · cases hq
  · exact hq

theorem Engine.sound_enrolKit {e : Engine} (hc : e.Counted) (hs : e.Sound) (kit plan : Nat) (key : Word32) (base : Nat) :
    (e.enrolKit kit plan key base).1.Sound := by
  obtain h | ⟨slot, -, number, -, -, -, -, h⟩ := e.enrolKit_cases hc.accounts kit plan key base
  · rwa [h]
  rw [h]
  intro i r q hr hq
  obtain ⟨p, hp, price, -⟩ := Engine.countPlan_spec hq
  rw [Table.get_put] at hr
  split at hr
  · cases hr
    refine ⟨?_, Record.owns_of_below (by simp [Record.enrolled]) id⟩
    simp [Record.wf, Record.enrolled, number.le]
  · obtain ⟨wf, owns⟩ := hs i r p hr hp
    exact ⟨wf, (Record.owns_of_price price).2 owns⟩

theorem Engine.sound_move {e : Engine} (hc : e.Counted) (hs : e.Sound) {kit plan : Nat} {w : Work} {new : Plan}
    (found : e.find kit = .found w) (defined : e.plans.get plan = some new) (t : Nat) :
    ((w.current t).move plan new t).1.Sound := by
  obtain ⟨-, -, hr, hp⟩ := Engine.find_spec found
  have cur := w.leads_current t
  obtain h | ⟨ho, -, h⟩ := (w.current t).move_cases plan new t
  · rw [h]
    exact (Engine.evolves_of_yields hc.accounts found cur.yields).sound hc hs
  rw [h]
  obtain ⟨accounts, -, plans, evolves⟩ := Work.settledOnPlan_spec (plan := plan) (t := t) new found
  have owns : (((w.current t).moved plan new).settleOnPlan t).record.owns new :=
    Work.owns_settleOnPlan (w := (w.current t).moved plan new) ho t
  intro i r q hr' hq
  rw [plans] at hq
  obtain ⟨q', hq', price', -⟩ := Engine.countPlan_spec hq
  obtain ⟨p, hp', price, -⟩ := Engine.countPlan_spec hq'
  rw [Record.owns_of_price (price'.trans price)]
  rw [accounts, Table.get_put] at hr'
  split at hr'
  · cases hr'
    rw [evolves.plan, defined] at hp'
    obtain rfl := Option.some.inj hp'
    exact ⟨evolves.wf (cur.record.wf (hs _ _ _ hr hp).1), owns⟩
  · exact hs i r p hr' hp'

theorem Engine.sound_retire {e : Engine} (hc : e.Counted) (hs : e.Sound) {kit : Nat} {w : Work}
    (found : e.find kit = .found w) (force : Bool) (t : Nat) : ((w.current t).retire force).1.Sound := by
  obtain h | h := (w.current t).retire_cases force
  · rw [h]
    exact (Engine.evolves_of_yields hc.accounts found (w.leads_current t).yields).sound hc hs
  rw [h]
  obtain ⟨accounts, -, plans⟩ := Work.removed_spec (t := t) found (w.current t).record.pending
  intro i r q hr hq
  rw [plans] at hq
  rw [accounts, Table.get_erase] at hr
  obtain ⟨p, hp, price, -⟩ := Engine.countPlan_spec hq
  split at hr
  · cases hr
  · obtain ⟨wf, owns⟩ := hs i r p hr hp
    exact ⟨wf, (Record.owns_of_price price).2 owns⟩

theorem Engine.Change.sound {e e' : Engine} {t : Nat} (h : e.Change t e') (hc : e.Counted) (hs : e.Sound) : e'.Sound := by
  cases h with
  | same => exact hs
  | cold => exact fun _ _ _ hr => nomatch hr
  | agents h =>
    obtain ⟨accounts, directory, plans⟩ := h.sameRecords
    exact (Engine.evolves_of_eq hc.accounts accounts directory plans).sound hc hs
  | definePlan plan p => exact Engine.sound_definePlan hc hs plan p
  | amendPlan plan changes p => exact Engine.sound_amendPlan hc hs plan changes p
  | releasePlan plan => exact Engine.sound_releasePlan hs plan
  | enrolKit kit plan key base => exact Engine.sound_enrolKit hc hs kit plan key base
  | takeNotices count => exact (Engine.evolves_takeNotices hc count).sound hc hs
  | served found h => exact (Engine.evolves_of_yields hc.accounts found h.yields).sound hc hs
  | move found defined => exact Engine.sound_move hc hs found defined t
  | retire found force => exact Engine.sound_retire hc hs found force t

/-- Settles O53: each change that a command can make of the tables keeps the records sound, the counts being exact. -/
theorem recordsStaySound : Obligations.RecordsStaySound := by
  intro c s s' owners records h
  obtain ⟨counted, sound⟩ := Engine.ownersWf_recordsWf_iff.1 ⟨owners, records⟩
  have change := exec_change h
  exact Engine.ownersWf_recordsWf_iff.2 ⟨change.counted counted, change.sound counted sound⟩

/-! ## What no command takes back (R5, R8, R10, R124, R130) -/

/-- The record of a slot before and after a command, as O60 compares them. -/
structure Record.Persists (r r' : Record) : Prop where
  kit     : r'.kit = r.kit
  offered : r.offer.number ≤ r'.offer.number
  acked   : r.acked ≤ r'.acked
  energy  : r.energy ≤ r'.energy
  paid    : r.paid.isSome = true → r'.paid.isSome = true
  owned   : r.state = .owned → r'.state = .owned

theorem Record.Persists.refl (r : Record) : r.Persists r := ⟨rfl, le_refl _, le_refl _, le_refl _, id, id⟩

theorem Record.Evolves.persists {p : Plan} {r r' : Record} (h : r.Evolves p r') (hw : r.wf) : r.Persists r' :=
  ⟨h.kit, h.offered, h.acked hw, h.energy hw, h.paid, h.owned⟩

/-- Every record that is still in its slot persists. -/
def Engine.Persists (e e' : Engine) : Prop :=
  ∀ slot r r', e.accounts.get slot = some r → e'.accounts.get slot = some r' → r.Persists r'

theorem Engine.persists_of_accounts {e e' : Engine} (h : e'.accounts = e.accounts) : e.Persists e' := by
  intro slot r r' hr hr'
  rw [h, hr] at hr'
  cases hr'
  exact .refl r

theorem Engine.Evolves.persists {e e' : Engine} (h : e.Evolves e') (hc : e.Counted) (hw : e.recordsWf) : e.Persists e' := by
  intro slot r r' hr hr'
  obtain ⟨r₀, hr₀, evolves⟩ := h.record hr'
  obtain rfl := Option.some.inj (hr.symm.trans hr₀)
  obtain ⟨p, hp⟩ := hc.named hr
  exact (evolves p hp).persists (hw _ (Table.mem_of_get hr))

theorem Engine.persists_enrolKit {e : Engine} (hw : Table.wf e.accounts) (kit plan : Nat) (key : Word32) (base : Nat) :
    e.Persists (e.enrolKit kit plan key base).1 := by
  obtain h | ⟨slot, -, -, -, -, -, free, h⟩ := e.enrolKit_cases hw kit plan key base
  · exact Engine.persists_of_accounts (by rw [h])
  intro i r r' hr hr'
  rw [h, Table.get_put_other (by rintro rfl; rw [free] at hr; cases hr), hr] at hr'
  cases hr'
  exact .refl r

theorem Engine.persists_move {e : Engine} (hc : e.Counted) (hw : e.recordsWf) {kit plan : Nat} {w : Work} {new : Plan}
    (found : e.find kit = .found w) (t : Nat) : e.Persists ((w.current t).move plan new t).1 := by
  obtain ⟨-, -, found', -⟩ := Engine.find_spec found
  have cur := w.leads_current t
  obtain h | ⟨-, -, h⟩ := (w.current t).move_cases plan new t
  · rw [h]
    exact (Engine.evolves_of_yields hc.accounts found cur.yields).persists hc hw
  rw [h]
  obtain ⟨accounts, -, -, evolves⟩ := Work.settledOnPlan_spec (plan := plan) (t := t) new found
  intro i r r' hr hr'
  rw [accounts, Table.get_put] at hr'
  split at hr'
  next same =>
    cases hr'
    obtain rfl := Option.some.inj (found'.symm.trans (same ▸ hr))
    have before := cur.record.persists (hw _ (Table.mem_of_get hr))
    have after := evolves.persists (cur.record.wf (hw _ (Table.mem_of_get hr)))
    exact ⟨after.kit.trans before.kit, before.offered.trans after.offered, before.acked.trans after.acked,
      before.energy.trans after.energy, after.paid ∘ before.paid, after.owned ∘ before.owned⟩
  next =>
    obtain rfl := Option.some.inj (hr.symm.trans hr')
    exact .refl _

theorem Engine.persists_retire {e : Engine} (hc : e.Counted) (hw : e.recordsWf) {kit : Nat} {w : Work}
    (found : e.find kit = .found w) (force : Bool) (t : Nat) : e.Persists ((w.current t).retire force).1 := by
  obtain h | h := (w.current t).retire_cases force
  · rw [h]
    exact (Engine.evolves_of_yields hc.accounts found (w.leads_current t).yields).persists hc hw
  rw [h]
  obtain ⟨accounts, -, -⟩ := Work.removed_spec (t := t) found (w.current t).record.pending
  intro i r r' hr hr'
  rw [accounts, Table.get_erase] at hr'
  split at hr'
  · cases hr'
  · obtain rfl := Option.some.inj (hr.symm.trans hr')
    exact .refl _

theorem Engine.definePlan_accounts (e : Engine) (n : Nat) (p : PlanNums) : (e.definePlan n p).1.accounts = e.accounts := by
  obtain h | ⟨-, -, h⟩ := e.definePlan_cases n p <;> rw [h]

theorem Engine.amendPlan_accounts (e : Engine) (n changes : Nat) (p : PlanNums) :
    (e.amendPlan n changes p).1.accounts = e.accounts := by
  obtain h | ⟨_, _, -, -, -, h⟩ := e.amendPlan_cases n changes p <;> rw [h]

theorem Engine.releasePlan_accounts (e : Engine) (n : Nat) : (e.releasePlan n).1.accounts = e.accounts := by
  obtain h | ⟨-, -, -, h⟩ := e.releasePlan_cases n <;> rw [h]

theorem Engine.Change.persists {e e' : Engine} {t : Nat} (h : e.Change t e') (hc : e.Counted) (hw : e.recordsWf) :
    e.Persists e' := by
  cases h with
  | same => exact Engine.persists_of_accounts rfl
  | cold => exact fun _ _ _ _ hr' => nomatch hr'
  | agents h => exact Engine.persists_of_accounts h.sameRecords.1
  | definePlan plan p => exact Engine.persists_of_accounts (e.definePlan_accounts plan p)
  | amendPlan plan changes p => exact Engine.persists_of_accounts (e.amendPlan_accounts plan changes p)
  | releasePlan plan => exact Engine.persists_of_accounts (e.releasePlan_accounts plan)
  | enrolKit kit plan key base => exact Engine.persists_enrolKit hc.accounts kit plan key base
  | takeNotices count => exact (Engine.evolves_takeNotices hc count).persists hc hw
  | served found h => exact (Engine.evolves_of_yields hc.accounts found h.yields).persists hc hw
  | move found defined => exact Engine.persists_move hc hw found t
  | retire found force => exact Engine.persists_retire hc hw found force t

/-- Settles O60: each change that a command can make of the tables lets every record that stays in its slot persist. -/
theorem recordsNeverGoBack : Obligations.RecordsNeverGoBack := by
  intro c s s' slot r r' plans records h before after
  obtain ⟨kit, offered, acked, energy, paid, owned⟩ :=
    (exec_change h).persists (Engine.plansWf_iff.1 plans) records slot r r' before after
  exact ⟨kit, offered, acked, energy, paid, owned⟩

end Sys2Proof.Machine

/-! # Reset and the requests of the host on records -/

namespace Sys2Proof.Machine

/-- Settles O3: the reset state is given field by field. -/
theorem resetValues : Obligations.ResetValues := rfl

/-- The invariants of the tables hold of empty ones. -/
theorem Engine.invariants_cold :
    Engine.cold.ownersWf ∧ Engine.cold.recordsWf ∧ Engine.cold.expiryWf ∧ Engine.cold.noticesWf ∧
      Engine.cold.moneyWf :=
  ⟨by decide, by decide, by decide, by decide, by decide⟩

/-- A line after a cold start is sound, and nothing is on its way to it (R160, R174). -/
theorem Line.invariants_cold (n : LineNo) :
    (Line.started .cold).wf ∧ (Line.started .cold).agrees n none := by
  cases n <;> exact ⟨by decide, by decide⟩

/-- Settles O4: each invariant is evaluated on the empty tables and the start values. -/
theorem invariantsHoldAtReset : Obligations.InvariantsHoldAtReset := by
  obtain ⟨owners, records, expiry, notices, money⟩ := Engine.invariants_cold
  refine ⟨owners, records, expiry, notices, money, by decide, by decide, fun n _ => ?_⟩
  have := Line.invariants_cold n
  cases n <;> exact this

/-! ## The record requests on a granted frame (R11, R12, R31) -/

section
variable {s : State} {kit : Nat}

theorem exec_lookupKit (h : s.grantedRequest = some (.lookupKit kit)) :
    exec .lookupKit s = s.answer (s.engine.onKit (.lookupKit kit) kit true none s.instant
      fun w => w.done (w.lookupFields s.instant)) := by
  simp only [exec, execLookupKit, h]

theorem exec_suspendKit {reason : Nat} (h : s.grantedRequest = some (.suspendKit kit reason)) :
    exec .suspendKit s = s.answer (s.engine.onKit (.suspendKit kit reason) kit true none s.instant
      fun w => w.suspend reason) := by
  simp only [exec, execSuspendKit, h]

theorem exec_resumeKit (h : s.grantedRequest = some (.resumeKit kit)) :
    exec .resumeKit s = s.answer (s.engine.onKit (.resumeKit kit) kit true none s.instant
      fun w => w.resume s.instant) := by
  simp only [exec, execResumeKit, h]

theorem exec_setKitKey {key : Nat} (h : s.grantedRequest = some (.setKitKey kit key)) :
    exec .setKitKey s = s.answer (s.engine.onKit (.setKitKey kit key) kit true none s.instant
      fun w => w.setKey (BitVec.ofNat 32 key)) := by
  simp only [exec, execSetKitKey, h]

theorem exec_movePlan_undefined {plan : Nat} (h : s.grantedRequest = some (.movePlan kit plan))
    (undefined : s.engine.plans.get plan = none) :
    exec .movePlan s = s.answer (s.engine.onKit (.movePlan kit plan) kit (planInRange plan) (some .unknownPlan) s.instant
      fun w => w.refuse .unknownPlan) := by
  simp only [exec, execMovePlan, h, undefined]

theorem exec_movePlan {plan : Nat} {new : Plan} (h : s.grantedRequest = some (.movePlan kit plan))
    (defined : s.engine.plans.get plan = some new) :
    exec .movePlan s = s.answer (s.engine.onKit (.movePlan kit plan) kit (planInRange plan) none s.instant
      fun w => w.move plan new s.instant) := by
  simp only [exec, execMovePlan, h, defined]

theorem exec_retireKit {force : Nat} (h : s.grantedRequest = some (.retireKit kit force)) :
    exec .retireKit s = s.answer (s.engine.onKit (.retireKit kit force) kit (flagOf force).isSome none s.instant
      fun w => w.retire (force = 1)) := by
  simp only [exec, execRetireKit, h]

theorem exec_pay {amount : Nat} (h : s.grantedRequest = some (.pay kit amount)) :
    exec .pay s = s.answer (s.engine.onKit (.pay kit amount) kit true none s.instant
      fun w => w.pay s.calendar.state amount s.instant) := by
  simp only [exec, execPay, h]

theorem exec_confirm {reference : Nat} (h : s.grantedRequest = some (.confirm kit reference)) :
    exec .confirm s = s.answer (s.engine.onKit (.confirm kit reference) kit (reference != 0) none s.instant
      fun w => w.confirm reference) := by
  simp only [exec, execConfirm, h]

theorem exec_reverse {reference : Nat} (h : s.grantedRequest = some (.reverse kit reference)) :
    exec .reverse s = s.answer (s.engine.onKit (.reverse kit reference) kit (reference != 0) none s.instant
      fun w => w.reverse reference s.instant) := by
  simp only [exec, execReverse, h]

/-- A record request whose checks have passed answers with its work on the record brought current (R11, R12). -/
theorem State.answer_found {q : Request} {good : Bool} {work : Work → Worked} {w : Work} {e : Engine} {result : Result}
    {fields : List Field} (h : s.grantedRequest = some q) (low : 1 ≤ kit) (high : kit ≤ 4294967294) (hg : good = true)
    (found : s.engine.find kit = .found w) (hw : work (w.current s.instant) = (e, result, fields)) :
    s.answer (s.engine.onKit q kit good none s.instant work) =
      .next (s.responded e ⟨BitVec.ofNat 8 q.code, result, wordField kit :: fields⟩) := by
  rw [Engine.onKit_found low high hg found, hw]
  exact State.answer_granted h _ _

end

/-! ## Refusals common to the record requests (R3, R11, R12, R177) -/

/-- The command of a record request runs the steps of R11 with the kit id and the field check of the request. -/
theorem exec_of_onRecord {r : Request} {c : Instr} {kit : Nat} {good : Bool} {s : State}
    (hr : r.onRecord = some (c, kit, good)) (h : s.grantedRequest = some r) :
    ∃ name work, exec c s = s.answer (s.engine.onKit r kit good name s.instant work) := by
  unfold Request.onRecord at hr
  split at hr <;> cases hr
  case h_1 => exact ⟨none, _, exec_lookupKit h⟩
  case h_2 => exact ⟨none, _, exec_suspendKit h⟩
  case h_3 => exact ⟨none, _, exec_resumeKit h⟩
  case h_4 => exact ⟨none, _, exec_setKitKey h⟩
  case h_5 plan =>
    rw [show decide (plan ≤ 31) = planInRange plan from Bool.eq_iff_iff.2 (by simp [planInRange_iff])]
    cases defined : s.engine.plans.get plan with
    | none => exact ⟨some .unknownPlan, _, exec_movePlan_undefined h defined⟩
    | some new => exact ⟨none, _, exec_movePlan h defined⟩
  case h_6 force =>
    rw [show decide (force ≤ 1) = (flagOf force).isSome from Bool.eq_iff_iff.2 (by simp [flagOf_isSome])]
    exact ⟨none, _, exec_retireKit h⟩
  case h_7 => exact ⟨none, _, exec_pay h⟩
  case h_8 reference =>
    rw [show decide (reference ≠ 0) = (reference != 0) from Bool.eq_iff_iff.2 (by simp)]
    exact ⟨none, _, exec_confirm h⟩
  case h_9 reference =>
    rw [show decide (reference ≠ 0) = (reference != 0) from Bool.eq_iff_iff.2 (by simp)]
    exact ⟨none, _, exec_reverse h⟩

/-- Settles O8: the nine requests share the first steps of R11, and a frame without a request is answered by the part. -/
theorem badRequestsAreRefused : Obligations.BadRequestsAreRefused := by
  refine ⟨fun r c kit good s hr h => ?_, fun s f hf hr => ?_⟩
  · obtain ⟨name, work, run⟩ := exec_of_onRecord hr h
    rw [run]
    refine ⟨fun bad => ?_, fun low high fields absent => ?_⟩
    · rw [Engine.onKit_badField bad]
      exact State.answer_granted h _ _
    · rw [Engine.onKit_unknownKit low high fields absent]
      exact State.answer_granted h _ _
  · have run : exec .unknownRequestKind s = s.answer (some (s.engine, ⟨f.kind, .badField, []⟩)) := by
      simp only [exec, execUnknownRequestKind, hf, hr]
    rw [run]
    exact State.answer_of_grant (State.grantedFrame_spec hf).1 _ _

/-! ## ENROL KIT (R13, R14) -/

section
variable {e : Engine} {kit plan base : Nat} {key : Word32}

theorem Engine.enrolKit_badField (h : ¬(1 ≤ kit ∧ kit ≤ 4294967294 ∧ plan ≤ 31 ∧ base ≤ 4294967294)) :
    e.enrolKit kit plan key base = (e, .badField, []) := by
  refine if_pos ?_
  have number : base < Config.max32 ↔ base ≤ 4294967294 := Nat.lt_succ_iff
  simp only [Bool.not_eq_true', ← Bool.not_eq_true, Bool.and_eq_true, decide_eq_true_eq, kitInRange_iff, planInRange_iff,
    number, and_assoc]
  exact h

/-- With its fields in range ENROL KIT goes on to the checks of the tables. -/
theorem Engine.enrolKit_inRange (h : 1 ≤ kit ∧ kit ≤ 4294967294 ∧ plan ≤ 31 ∧ base ≤ 4294967294) :
    e.enrolKit kit plan key base =
      if (e.plans.get plan).isNone then (e, .unknownPlan, [])
      else if (e.directory.get kit).isSome then (e, .duplicateKit, [])
      else if Config.slots ≤ e.accounts.lowestFree 0 then (e, .tableFull, [])
      else ({ e.countPlan plan (· + 1) with
          accounts := e.accounts.put (e.accounts.lowestFree 0) (.enrolled kit plan key base)
          directory := e.directory.put kit (e.accounts.lowestFree 0) }, .done, [pairField (e.accounts.lowestFree 0)]) := by
  refine if_neg ?_
  have number : base < Config.max32 ↔ base ≤ 4294967294 := Nat.lt_succ_iff
  simp only [Bool.not_eq_true', ← Bool.not_eq_true, Bool.and_eq_true, decide_eq_true_eq, kitInRange_iff, planInRange_iff,
    number, and_assoc, not_not]
  exact h

/-- The lowest free slot of a table in canonical form (R14). -/
theorem Table.lowestFree_eq {α : Type} {t : Table α} (hw : Table.wf t) {slot : Nat} (free : t.get slot = none)
    (used : ∀ j < slot, (t.get j).isSome = true) : Table.lowestFree 0 t = slot := by
  obtain ⟨-, isFree, below⟩ := Table.lowestFree_spec 0 hw fun _ _ => Nat.zero_le _
  refine le_antisymm (Nat.le_of_not_lt fun h => ?_) (Nat.le_of_not_lt fun h => ?_)
  · simpa [free] using below slot (Nat.zero_le _) h
  · simpa [isFree] using used _ h

/-- A table in canonical form with no free slot below 4096 (R1). -/
theorem Table.slots_le_lowestFree {α : Type} {t : Table α} (hw : Table.wf t)
    (used : ∀ j < 4096, (t.get j).isSome = true) : Config.slots ≤ Table.lowestFree 0 t := by
  obtain ⟨-, isFree, -⟩ := Table.lowestFree_spec 0 hw fun _ _ => Nat.zero_le _
  refine Nat.le_of_not_lt fun h => ?_
  simpa [isFree] using used _ h

end

/-- Settles O9: the checks of R13 in order, and the lowest free slot of R14. -/
theorem enrolKitWritesRecord : Obligations.EnrolKitWritesRecord := by
  intro s kit plan key base h hw good refused
  have run : exec .enrolKit s = .next (s.responded (s.engine.enrolKit kit plan (BitVec.ofNat 32 key) base).1
      (kitResponse (.enrolKit kit plan key base) kit (s.engine.enrolKit kit plan (BitVec.ofNat 32 key) base).2.1
        (s.engine.enrolKit kit plan (BitVec.ofNat 32 key) base).2.2)) := by
    simp only [exec, execEnrolKit, h]
    exact State.answer_granted h _ _
  refine ⟨fun bad => ?_, fun ok undefined => ?_, fun p ok defined => ⟨fun held => ?_, fun fresh full => ?_,
    fun fresh slot bound free used => ?_⟩⟩
  · rw [run, Engine.enrolKit_badField bad]
    rfl
  all_goals rw [run, Engine.enrolKit_inRange ok]
  · rw [if_pos (by simp [undefined])]
    rfl
  all_goals rw [if_neg (by simp [defined])]
  · rw [if_pos held]
    rfl
  all_goals rw [if_neg (by simp [fresh])]
  · rw [if_pos (Table.slots_le_lowestFree hw full)]
    rfl
  · rw [Table.lowestFree_eq hw free used, if_neg (show ¬Config.slots ≤ slot from Nat.not_le.2 bound),
      Engine.countPlan_eq defined]
    rfl

/-! ## LOOKUP KIT and SET KIT KEY (R15, R18) -/

/-- Settles O10: both requests are accepted on any record, brought current. -/
theorem lookupAndKeyRequests : Obligations.LookupAndKeyRequests := by
  refine ⟨fun s kit w h low high found => ?_, fun s kit key w h low high found => ?_⟩
  · rw [exec_lookupKit h]
    refine (State.answer_found h low high rfl found rfl).trans ?_
    simp only [Work.lookupFields, dueFields, List.append_assoc, List.cons_append, List.nil_append]
    rfl
  · rw [exec_setKitKey h]
    exact State.answer_found h low high rfl found rfl

/-! ## SUSPEND KIT and RESUME KIT (R16, R17) -/

/-- The whole of an accepted RESUME KIT (R17, R104). -/
theorem Work.resumed_remind_rekey (w : Work) (t : Nat) :
    let state := creditState w.record.paid w.plan.window t
    let remind := state == .active && decide (0 < w.plan.lead) &&
      decide (w.record.paid.getD 0 - t ≤ w.plan.lead) && !w.record.reminded
    let r := { w.record with
      reason := none, state := state, reminded := w.record.reminded || remind
      notices := if remind then w.record.notices.raise .remind else w.record.notices }
    ((w.resumed t).remind t).rekey = { w with
      engine := { w.engine with
        expiry := rekeyed w.engine.expiry w.record.kit w.slot (r.dueFor w.plan)
        notices := if remind && decide (w.record.notices = .clear) then w.engine.notices ++ [w.record.kit]
          else w.engine.notices }
      record := { r with due := r.dueFor w.plan } } := by
  intro state remind r
  rw [Work.remind_eq]
  rfl

/-- Settles O11: the refusal and the acceptance of each request. -/
theorem suspendAndResumeKit : Obligations.SuspendAndResumeKit := by
  refine ⟨fun s kit reason w h low high found => ⟨fun kept => ?_, fun hs ho => ?_⟩,
    fun s kit w h low high found => ⟨fun other => ?_, fun hs => ?_⟩⟩
  · rw [exec_suspendKit h]
    exact State.answer_found h low high rfl found (Work.suspend_refused kept reason)
  · rw [exec_suspendKit h]
    exact State.answer_found h low high rfl found (Work.suspend_accepted hs ho reason)
  · rw [exec_resumeKit h]
    exact State.answer_found h low high rfl found (Work.resume_refused other s.instant)
  · rw [exec_resumeKit h]
    have work := Work.resume_accepted hs s.instant
    rw [Work.resumed_remind_rekey] at work
    exact State.answer_found h low high rfl found work

/-! ## MOVE PLAN (R19, R20) -/

/-- The tables and the record of a move, the two plans being DEFINED. -/
theorem Work.moved_eq {w : Work} {plan : Nat} {old new : Plan} (hn : plan ≠ w.record.plan)
    (held : w.engine.plans.get w.record.plan = some old) (defined : w.engine.plans.get plan = some new) :
    w.moved plan new =
      { engine := { w.engine with
          plans := (w.engine.plans.put w.record.plan { old with refCount := old.refCount - 1 }).put plan
            { new with refCount := new.refCount + 1 } }
        slot := w.slot, plan := new, record := { w.record with plan := plan } } := by
  have first := Engine.countPlan_eq (f := (· - 1)) held
  have still : (w.engine.countPlan w.record.plan (· - 1)).plans.get plan = some new := by
    rw [Engine.countPlan_get, if_neg hn, defined]
  rw [Work.moved, Engine.countPlan_eq still, first]

/-- Settles O12: the refusals of R19, the plan already held, and the three endings of R20. -/
theorem movePlanMovesRecord : Obligations.MovePlanMovesRecord := by
  intro s kit plan new w h low high range defined found t w' answered
  have answer : ∀ {e : Engine} {result : Result} {fields : List Field},
      w'.move plan new t = (e, result, fields) → answered e result fields := fun work => by
    refine (exec_movePlan h defined).trans ?_
    exact State.answer_found h low high (planInRange_iff.2 range) found work
  have plans : w'.engine.plans = s.engine.plans :=
    (w.same_current t).plans.trans (congrArg Engine.plans (Engine.find_spec found).1)
  refine ⟨fun ho => ?_, fun ho hp => ?_, fun ho hp held => ?_, fun old ho hp hn held => ?_⟩
  · exact answer (Work.move_owned ho plan new t)
  · exact answer (Work.move_pending ho hp plan new t)
  · exact answer (held ▸ Work.move_held ho hp new t)
  · have moved := Work.moved_eq hn (plans ▸ held) (plans ▸ defined)
    have settled := (w'.moved plan new).settleOnPlan_eq ho t
    rw [moved] at settled
    obtain ⟨owned, suspended, recomputed⟩ := settled
    have work := Work.move_moved ho hp hn new t
    rw [moved] at work
    refine ⟨fun reaches => answer ?_, fun short hs => answer ?_, fun short hs => answer ?_⟩
    · rw [work, owned reaches]
      rfl
    · rw [work, suspended short hs]
      exact congrArg (fun x => (_, _, [stateField (some x)])) hs
    · rw [work, recomputed short hs]
      rfl

/-! ## RETIRE KIT (R21, R22) -/

section
variable (w : Work) (en : Entry) (f : Agent → Agent)

@[simp] theorem Work.takeEntry_poolFree : (w.takeEntry en f).engine.poolFree = w.engine.poolFree + 1 := by
  simp [Work.takeEntry]

@[simp] theorem Work.takeEntry_settlement :
    (w.takeEntry en f).engine.settlement = settleRemove w.record.kit en.reference w.engine.settlement := by
  simp [Work.takeEntry]

@[simp] theorem Work.takeEntry_expiry : (w.takeEntry en f).engine.expiry = w.engine.expiry := by
  simp [Work.takeEntry]

@[simp] theorem Work.takeEntry_notices : (w.takeEntry en f).engine.notices = w.engine.notices := by
  simp [Work.takeEntry]

theorem Work.takeEntry_agents (n : Nat) : (w.takeEntry en f).engine.agents.get n =
    if n = en.agent then (w.engine.agents.get n).map f else w.engine.agents.get n := by
  simp only [Work.takeEntry, Engine.changeAgent_get, Work.dropEntry_engine_agents]
  split
  next same => rw [same]
  next => rfl

end

/-- Several amounts reversed one after the other are reversed as their sum (R57, R77, R91). -/
theorem Agent.foldl_unsettle (a : Agent) (entries : List Entry) :
    entries.foldl (fun a en => a.unsettle en.amount) a = if entries = [] then a else { a with
      outstanding := a.outstanding - amountSum entries
      reversed := min (a.reversed + amountSum entries) 281474976710655 } := by
  induction entries generalizing a with
  | nil => rfl
  | cons en rest ih =>
    have total : amountSum (en :: rest) = en.amount + amountSum rest := by simp [amountSum]
    rw [List.foldl_cons, ih, if_neg (List.cons_ne_nil en rest), total]
    by_cases last : rest = []
    · subst last
      rfl
    · rw [if_neg last]
      simp only [Agent.unsettle, addTotal, Config.totalMax, Agent.mk.injEq, true_and, and_true]
      omega

/-- What FORCE leaves of pool, settlement index and agents when it reverses some entries (R22). -/
theorem Work.forceReverses_spec (w : Work) (entries : List Entry) :
    let w' := entries.foldl Work.forceReverse w
    w'.engine.poolFree = w.engine.poolFree + entries.length ∧
    w'.engine.expiry = w.engine.expiry ∧ w'.engine.notices = w.engine.notices ∧
    (∀ i, i ∈ w'.engine.settlement ↔ i ∈ w.engine.settlement ∧
      ¬(i.kit = w.record.kit ∧ i.reference ∈ entries.map Entry.reference)) ∧
    (∀ n, w'.engine.agents.get n = (w.engine.agents.get n).map fun a =>
      (entries.filter (fun en => en.agent == n)).foldl (fun a en => a.unsettle en.amount) a) := by
  induction entries generalizing w with
  | nil => simp
  | cons en rest ih =>
    obtain ⟨pool, expiry, notices, settlement, agents⟩ := ih (w.forceReverse en)
    rw [Work.forceReverse_eq] at *
    simp only [List.foldl_cons, Work.forceReverse_eq, Work.takeEntry_poolFree, Work.takeEntry_expiry,
      Work.takeEntry_notices, Work.takeEntry_settlement, Work.takeEntry_agents, mem_settleRemove,
      (w.same_takeEntry en _).kit] at *
    refine ⟨by rw [pool, List.length_cons]; omega, expiry, notices, fun i => ?_, fun n => ?_⟩
    · rw [settlement, List.map_cons, List.mem_cons]
      tauto
    · rw [agents]
      by_cases mine : n = en.agent
      · simp [mine, Function.comp_def]
      · simp [mine, Ne.symm mine]

/-- Settles O13: the refusal, and the tables that the removal leaves. -/
theorem retireKitRemovesRecord : Obligations.RetireKitRemovesRecord := by
  intro s kit force w h low high range found w'
  have isFlag : (flagOf force).isSome = true := flagOf_isSome.2 range
  refine ⟨fun clear pending => ?_, fun accepted => ?_⟩
  · rw [exec_retireKit h]
    refine State.answer_found h low high isFlag found ?_
    rw [decide_eq_false (by omega)]
    exact Work.retire_refused pending
  · have accepted' : decide (force = 1) = true ∨ w'.record.pending = [] := by simpa using accepted
    have same := w'.same_forceReverses w'.record.pending
    obtain ⟨pool, expiry, notices, settlement, agents⟩ := w'.forceReverses_spec w'.record.pending
    refine ⟨_, (exec_retireKit h).trans
      (State.answer_found h low high isFlag found (Work.retire_retired accepted')), ?_⟩
    unfold Work.remove
    rw [Engine.countPlan_plans]
    dsimp only
    rw [same.accounts, same.slot, same.directory, same.kit, same.planNumber, expiry, notices, pool]
    refine ⟨rfl, rfl, fun n => ?_, rfl, fun k => by simp, rfl, settlement, fun n => ?_⟩
    · rw [Engine.countPlan_get, same.plans]
    · refine (agents n).trans ?_
      simp only [Agent.foldl_unsettle]

end Sys2Proof.Machine

/-! # Payments, confirmations and top-ups accepted -/

namespace Sys2Proof.Machine

/-! ## PAY accepted (R9, R10, R68 to R70) -/

theorem Record.completesPrice_iff {r : Record} {p : Plan} {amount : Nat} :
    r.completesPrice p amount = true ↔ 0 < p.price ∧ p.price ≤ r.confirmed + amount := by
  simp [Record.completesPrice]

section
variable {w : Work} {calendar : CalendarState} {amount t : Nat}

/-- PAY beyond its first three refusals (R67). -/
theorem Work.pay_admitted (known : calendar = .known) (ho : w.record.state ≠ .owned) (least : w.plan.minimum ≤ amount) :
    w.pay calendar amount t =
      if w.record.completesPrice w.plan amount then
        w.becomeOwned.done (w.becomeOwned.payFields 0 (w.plan.price - w.record.confirmed) 0
          (amount - (w.plan.price - w.record.confirmed)))
      else
        match convert w.plan amount (residueEntering w.plan.rounding w.record.residue) (w.record.base t) t with
        | none => w.refuse .capExceeded
        | some c => (w.payIn c t).done ((w.payIn c t).payFields c.minutes c.accepted c.surplus 0) :=
  (if_neg (by simp [known])).trans ((if_neg ho).trans (if_neg (Nat.not_lt.2 least)))

theorem Work.pay_completes (known : calendar = .known) (ho : w.record.state ≠ .owned) (least : w.plan.minimum ≤ amount)
    (price : 0 < w.plan.price) (reaches : w.plan.price ≤ w.record.confirmed + amount) :
    w.pay calendar amount t = w.becomeOwned.done (w.becomeOwned.payFields 0 (w.plan.price - w.record.confirmed) 0
      (amount - (w.plan.price - w.record.confirmed))) :=
  (Work.pay_admitted known ho least).trans (if_pos (Record.completesPrice_iff.2 ⟨price, reaches⟩))

theorem Work.pay_converts {c : Conversion} (known : calendar = .known) (ho : w.record.state ≠ .owned)
    (least : w.plan.minimum ≤ amount) (short : ¬(0 < w.plan.price ∧ w.plan.price ≤ w.record.confirmed + amount))
    (converted : convert w.plan amount (if w.plan.rounding = .carry then w.record.residue else 0) (w.record.base t) t =
      some c) :
    w.pay calendar amount t = (w.payIn c t).done ((w.payIn c t).payFields c.minutes c.accepted c.surplus 0) := by
  refine (Work.pay_admitted known ho least).trans ((if_neg (fun h => short (Record.completesPrice_iff.1 h))).trans ?_)
  rw [residueEntering_eq, converted]

end

/-- Settles O20: a PAY that completes the price, and one that is converted and credited. -/
theorem payIsAccepted : Obligations.PayIsAccepted := by
  refine ⟨fun s kit amount w h low high found => ?_, fun s kit amount w c h low high found => ?_⟩
  all_goals
    rw [exec_pay h, Engine.onKit_found low high rfl found, State.answer_granted h]
    generalize w.current s.instant = w
  · intro w' known ho least price reaches
    rw [Work.pay_completes known ho least price reaches]
    rfl
  · intro w' t base known ho least short converted
    rw [Work.pay_converts known ho least short converted, Work.payIn_eq, Work.credit_eq (w := w'.takePay c) ho]
    rfl

/-! ## CONFIRM (R10, R76, R78, R79) -/

theorem Work.confirm_unknown {w : Work} {reference : Nat} (h : findEntry reference w.record.pending = none) :
    w.confirm reference = w.refuse .unknownReference := by
  simp only [Work.confirm, h]

theorem Work.confirm_found {w : Work} {reference : Nat} {en : Entry}
    (h : findEntry reference w.record.pending = some en) :
    w.confirm reference = (w.confirmEntry en).1.done
      [wordField en.reference, byteField en.agent, wordField en.amount,
        wordField (if w.record.state = .owned then en.amount else (w.confirmEntry en).2),
        stateField (some (w.confirmEntry en).1.record.state), moneyField (w.confirmEntry en).1.record.confirmed] := by
  simp only [Work.confirm, h]

theorem findEntry_reference {reference : Nat} {pending : List Entry} {en : Entry}
    (h : findEntry reference pending = some en) : en.reference = reference := by
  simpa using List.find?_some h

/-- Whatever a confirmation makes of the record, the agent's money is settled, and paid-through and reminder raised stay. -/
theorem Work.confirmEntry_keeps (w : Work) (en : Entry) :
    (w.confirmEntry en).1.engine.agents = (w.takeEntry en (fun a => a.settle en.amount)).engine.agents ∧
    (w.confirmEntry en).1.record.paid = w.record.paid ∧ (w.confirmEntry en).1.record.reminded = w.record.reminded := by
  by_cases ho : w.record.state = .owned
  · rw [Work.confirmEntry_owned ho]
    exact ⟨rfl, rfl, rfl⟩
  by_cases hp : 0 < w.plan.price ∧ w.plan.price ≤ w.record.confirmed + en.amount
  · rw [Work.confirmEntry_completes ho hp]
    exact ⟨rfl, rfl, rfl⟩
  · rw [Work.confirmEntry_credits ho hp]
    exact ⟨rfl, rfl, rfl⟩

/-- Settles O21: what every confirmation does, then the record that was OWNED, becomes OWNED or is credited. -/
theorem confirmSettlesEntry : Obligations.ConfirmSettlesEntry := by
  intro s kit reference w h low high nonzero found
  rw [exec_confirm h, Engine.onKit_found low high (by simpa using nonzero) found, State.answer_granted h]
  generalize w.current s.instant = w
  intro w'
  refine ⟨fun absent => by rw [Work.confirm_unknown absent]; rfl, fun en held => ?_⟩
  obtain rfl := findEntry_reference held
  obtain ⟨pending, pool, settlement⟩ := w'.drops_confirmEntry en
  obtain ⟨agents, paid, reminded⟩ := w'.confirmEntry_keeps en
  refine ⟨(w'.confirmEntry en).1, if w'.record.state = .owned then en.amount else (w'.confirmEntry en).2,
    by rw [Work.confirm_found held]; rfl,
    w'.same_confirmEntry en, pending, pool, fun i => by rw [settlement, mem_settleRemove], fun n => ?_, paid, reminded,
    fun ho => ?_, fun ho => ?_⟩
  · rw [agents, Work.takeEntry_agents]
    rfl
  · rw [if_pos ho, Work.confirmEntry_owned ho]
    exact ⟨rfl, w'.takeEntry_expiry en _, w'.takeEntry_notices en _, rfl⟩
  · rw [if_neg ho]
    have expiry := w'.takeEntry_expiry en (fun a => a.settle en.amount)
    have notices := w'.takeEntry_notices en (fun a => a.settle en.amount)
    by_cases hp : 0 < w'.plan.price ∧ w'.plan.price ≤ w'.record.confirmed + en.amount
    · rw [Work.confirmEntry_completes ho hp]
      refine ⟨rfl, fun _ _ => ⟨rfl, rfl, rfl, rfl, rfl, congrArg _ expiry, rfl, ?_⟩, fun short => absurd hp short⟩
      rw [Work.becomeOwned_engine_notices]
      exact congrArg (fun l => if w'.record.notices = .clear then l ++ [w'.record.kit] else l) notices
    · rw [Work.confirmEntry_credits ho hp]
      exact ⟨rfl, fun price reaches => absurd ⟨price, reaches⟩ hp,
        fun _ => ⟨rfl, rfl, rfl, rfl, expiry, rfl, notices, rfl⟩⟩

/-! ## TOP-UP accepted (R73, R74) -/

section
variable {w : Work} {m : TopUpMsg} {a b : Agent} {c : Conversion} {t : Nat}

/-- A TOP-UP that passes the checks of R72 is carried out (R73). -/
theorem Work.topUp_done (fresh : findEntry m.reference w.record.pending = none) (ho : w.record.state ≠ .owned)
    (least : w.plan.minimum ≤ m.amount) (room : w.record.pending.length < 4) (pool : 0 < w.engine.poolFree)
    (converted : convert w.plan m.amount 0 (w.record.base t) t = some c)
    (agent : w.engine.agents.get m.agent = some b) (float : b.outstanding + c.accepted ≤ b.limit) :
    w.topUp m a .known t = (w.topUpAccepted m a c t,
      ⟨m.reference, .done, c.minutes, c.accepted, c.surplus, (w.topUpAccepted m a c t).record.agentDays t⟩) := by
  have full : ¬Config.pendingPerRecord ≤ w.record.pending.length := Nat.not_le.2 room
  simp only [Work.topUp, fresh, ho, Nat.not_lt.2 least, full, pool.ne', converted, agent, Option.getD_some,
    Nat.not_lt.2 float, if_false, reduceCtorEq]

/-- TOP-UP of an agent that is not barred, its fields in range, on a record it finds (R71, R72). -/
theorem Engine.topUp_found {e : Engine} {calendar : CalendarState} {found : Work}
    (sender : e.senderOf m.agent m.covered m.check = some a) (admitted : a.barred = false)
    (fields : (kitInRange m.kit && m.reference != 0) = true) (find : e.find m.kit = .found found) :
    e.topUp m calendar t = some (((found.current t).topUp m a calendar t).1.commit,
      ((found.current t).topUp m a calendar t).2.reply a.key) := by
  unfold Engine.topUp
  split
  next absent => exact absurd (sender.symm.trans absent) (by simp)
  next a' present =>
    obtain rfl := Option.some.inj (sender.symm.trans present)
    simp [admitted, fields, find]

/-- The tables and the record of an accepted TOP-UP before its minutes are credited, its agent being in its slot. -/
theorem Work.addEntry_eq (agent : w.engine.agents.get m.agent = some b) :
    w.addEntry m a c t = { w with
      engine := { w.engine with
        agents := w.engine.agents.put m.agent (b.charge c.accepted)
        poolFree := w.engine.poolFree - 1
        settlement := settleInsert ⟨(m.entry a c t).deadline, w.record.kit, m.reference⟩ w.engine.settlement }
      record := { w.record with pending := w.record.pending ++ [m.entry a c t] } } := by
  simp only [Work.addEntry, Engine.changeAgent, agent]

end

theorem exec_topUp {s : State} {n : LineNo} {m : TopUpMsg} (h : s.grantedMessage = some (n, .topUp m)) :
    exec .topUp s = s.handle n (s.engine.topUp m s.calendar.state s.instant) := by
  simp only [exec, execTopUp, h]

/-- Settles O44: the checks of R71 and R72 pass, and the entry is made and credited as R73 and R9 say. -/
theorem topUpMakesEntry : Obligations.TopUpMakesEntry := by
  intro s n m a b w c h low high agent check admitted kitLow kitHigh nonzero found known t
  have sender : s.engine.senderOf m.agent m.covered m.check = some a :=
    Engine.senderOf_eq_some.2 ⟨agentInRange_iff.2 ⟨low, high⟩, agent, check⟩
  have fields : (kitInRange m.kit && m.reference != 0) = true := by
    simp [kitInRange_iff.2 ⟨kitLow, kitHigh⟩, nonzero]
  rw [exec_topUp h, Engine.topUp_found sender admitted fields found, known]
  generalize w.current t = w
  intro w' base fresh ho least room pool converted agent' float
  have done := Work.topUp_done (a := a) fresh ho least room pool converted agent' float
  rw [Work.topUpAccepted_eq, Work.credit_eq (w := w'.addEntry m a c t) ho, Work.addEntry_eq agent'] at done
  rw [done]
  exact State.handle_reply s n _ _

end Sys2Proof.Machine

/-! # Port, engine and supply monitor stay in agreement -/

namespace Sys2Proof.Machine

section
variable {s s' : State}

/-! ## What the agreement speaks of -/

/-- The part of the state that `State.portWf` speaks of: the port, what the engine holds, the supply state and whether a
restart waits. -/
def State.control (s : State) : Port × Option Hold × SupplyState × Bool :=
  (s.port, s.hold, s.supply.state, s.supply.resetWaiting)

theorem State.portWf_of_control (hw : s.portWf) (h : s'.control = s.control) : s'.portWf := by
  obtain ⟨port, hold, supply, waits⟩ : s'.port = s.port ∧ s'.hold = s.hold ∧ s'.supply.state = s.supply.state ∧
      s'.supply.resetWaiting = s.supply.resetWaiting := by simpa [State.control] using h
  simpa only [State.portWf, State.status, port, hold, supply, waits] using hw

/-- Whatever a frame in progress can have latched leads to the status of now (R180). -/
theorem State.portWf.leadsTo {x : Status} (hw : s.portWf) (h : x ∈ s.statuses) : x.leadsTo s.status := by
  obtain ⟨-, -, -, -, -, -, -, earlier⟩ := hw
  rcases List.mem_cons.1 h with rfl | old
  · exact ⟨rfl, rfl, .inl rfl, .inl rfl⟩
  · exact earlier x old

/-! ## The port gives up a request and takes a response -/

/-- With the port BUSY a frame begun before has latched BUSY, and a response makes the port READY (R179, R180). -/
theorem State.portWf.leadsTo_ready {x : Status} (hw : s.portWf) (busy : s.port.state = .busy) (h : x ∈ s.statuses) :
    x.leadsTo { s.status with port := .ready } := by
  obtain ⟨overrun, torn, supply, port⟩ := hw.leadsTo h
  refine ⟨overrun, torn, supply, .inr ⟨?_, rfl⟩⟩
  rcases port with same | ⟨latched, -⟩
  · exact same.trans busy
  · exact latched

/-- When the port is ready (R28). -/
theorem State.ready_port : s.ready .port = true ↔ s.port.state = .busy ∧ s.port.request.isSome = true := by
  simp [State.ready]

/-- A granted port is BUSY. -/
theorem State.busy_of_grant (h : s.grant = some .port) : s.port.state = .busy := by
  obtain ⟨-, -, -, ready⟩ := State.grant_spec h
  exact (State.ready_port.1 ready).1

theorem State.portWf_responded (hw : s.portWf) (h : s.grant = some .port) (e : Engine) (r : Response) :
    (s.responded e r).portWf := by
  obtain ⟨running, -, idle, -⟩ := State.grant_spec h
  exact ⟨nofun, fun _ => ⟨rfl, rfl⟩, nofun, by simp [idle], by simp [idle], by simp [running], by simp [running],
    fun x hx => hw.leadsTo_ready (State.busy_of_grant h) hx⟩

theorem State.answer_portWf {q : Request} {work : Handled} (hw : s.portWf) (g : s.grantedRequest = some q)
    (h : s.answer work = .next s') : s'.portWf := by
  cases work with
  | none => cases h
  | some left =>
    rw [State.answer_granted g] at h
    cases h
    exact State.portWf_responded hw (State.grantedRequest_spec g).1 _ _

/-- A request that the engine goes on holding leaves the port BUSY with its request taken (R27, R31). -/
theorem State.portWf_holdPort {q : Request} {hold : Hold} (hw : s.portWf) (g : s.grantedRequest = some q)
    (port : hold.ofPort = true) : (s.holdPort hold).portWf := by
  have grant := (State.grantedRequest_spec g).1
  obtain ⟨running, -, -, -⟩ := State.grant_spec grant
  have busy := State.busy_of_grant grant
  obtain ⟨-, -, isBusy, -, -, -, -, earlier⟩ := hw
  exact ⟨by simp [busy], by simp [busy], fun _ => ⟨(isBusy busy).1, running, fun _ => .inr ⟨hold, rfl, port⟩⟩,
    fun _ _ _ _ => ⟨busy, rfl⟩, by simp [running], by simp [running], by simp [running], earlier⟩

/-- A held request of the port completes, its command having acted elsewhere: the response makes the port READY, or is lost
with the stop or the restart that came in between (R33, R181). -/
theorem State.portWf_complete {acted : State} {hold : Hold} (hw : s.portWf) (holds : s.hold = some hold)
    (port : hold.ofPort = true) (same : acted.control = s.control) (r : Response) : (acted.complete r).portWf := by
  replace hw := State.portWf_of_control hw same
  replace holds : acted.hold = some hold := (congrArg (fun x => x.2.1) same).trans holds
  have leads {x : Status} (busy : acted.port.state = .busy) := hw.leadsTo_ready (x := x) busy
  obtain ⟨isIdle, isReady, isBusy, ofPort, powered, waits, still, earlier⟩ := hw
  have taken := ofPort hold (by simp [holds]) port
  cases takes : acted.takesResponse with
  | true =>
    rw [State.complete_of_takes takes]
    simp only [State.takesResponse, Bool.and_eq_true, beq_iff_eq, Bool.not_eq_true'] at takes
    obtain ⟨running, noRestart⟩ := takes
    obtain ⟨busy, noRequest⟩ := taken running
    exact ⟨nofun, fun _ => ⟨noRequest, rfl⟩, nofun, nofun, nofun, waits, by simp [running], fun x hx => leads busy hx⟩
  | false =>
    rw [State.complete_of_not_takes takes]
    have lost : acted.supply.state = .running → acted.supply.resetWaiting = true := by
      simpa [State.takesResponse] using takes
    exact ⟨isIdle, isReady,
      fun busy => ⟨(isBusy busy).1, (isBusy busy).2.1, fun _ => .inl (lost (isBusy busy).2.1)⟩,
      nofun, nofun, waits, still, earlier⟩

/-! ## The engine takes a message and has it delivered -/

/-- A message that the engine takes or completes is no work of the port: with the engine idle before or behind it, a BUSY
port has a request not taken, or one that a restart waiting has lost (R31, R33). -/
theorem State.portWf_message {hold : Option Hold} (hw : s.portWf) (before : ∀ h ∈ s.hold, h.ofPort = false)
    (after : ∀ h ∈ hold, h.ofPort = false)
    (powered : hold.isSome = true → s.supply.state = .running ∨ s.supply.state = .stopping) :
    ({ s with hold := hold } : State).portWf := by
  obtain ⟨isIdle, isReady, isBusy, -, -, waits, still, earlier⟩ := hw
  refine ⟨isIdle, isReady, fun busy => ?_, fun h held port => ?_, powered, waits, still, earlier⟩
  · obtain ⟨noResponse, running, request⟩ := isBusy busy
    refine ⟨noResponse, running, fun taken => (request taken).imp_right fun ⟨h, held, port⟩ => ?_⟩
    simp [before h held] at port
  · simp [after h held] at port

theorem State.handle_portWf {n : LineNo} {m : Message} {work : MessageWork} (hw : s.portWf)
    (g : s.grantedMessage = some (n, m)) (h : s.handle n work = .next s') : s'.portWf := by
  obtain ⟨running, -, idle, -⟩ := State.grant_spec (State.grantedMessage_spec g).1
  match work with
  | none => cases h
  | some (e, none) =>
    rw [State.handle_silent] at h
    cases h
    exact State.portWf_of_control hw rfl
  | some (e, some d) =>
    rw [State.handle_reply] at h
    cases h
    have held : ({ s with hold := some (.message n) } : State).portWf :=
      State.portWf_message hw (by simp [idle]) (by simp [Hold.ofPort]) (by simp [running])
    exact State.portWf_of_control held rfl

theorem mem_lineNos (n : LineNo) : n ∈ lineNos := by cases n <;> simp [lineNos]

/-- A delivery on its way to a line is that of the message the engine holds (R31, R162). -/
theorem State.hold_of_delivery {n : LineNo} {d : Delivery} {rest : List LineItem} (hl : s.linesWf)
    (h : (s.lines.get n).inFlight = .delivery d :: rest) : s.hold = some (.message n) := by
  obtain ⟨-, -, count, -⟩ := hl n (mem_lineNos n)
  by_contra other
  simp [h, other, LineItem.isDelivery] at count

/-- A read command on its way to a line is that of the READ LINE the engine holds (R173). -/
theorem State.hold_of_read {n : LineNo} {rest : List LineItem} (hl : s.linesWf)
    (h : (s.lines.get n).inFlight = .read :: rest) : s.hold = some (.lineReport n) := by
  obtain ⟨-, -, -, count⟩ := hl n (mem_lineNos n)
  by_contra other
  simp [h, other] at count

/-! ## Frames -/

/-- The end of a frame in any supply state, when what it does in RUNNING and STARTING keeps the agreement (R181). -/
theorem State.portWf_frame {before clocks : Nat} {live : Status → State} (hw : s.portWf)
    (hl : ∀ x, x.leadsTo s.status → s.supply.state = .running ∨ s.supply.state = .starting → (live x).portWf) :
    (s.frame before clocks live).portWf := by
  have ended (out : List Bool) : ({ s with port := s.port.frameEnded out } : State).portWf := by
    obtain ⟨isIdle, isReady, isBusy, ofPort, powered, waits, still, -⟩ := hw
    exact ⟨isIdle, isReady, isBusy, ofPort, powered, waits, still, nofun⟩
  cases latched : s.latched before with
  | none =>
    rw [State.frame_ended latched]
    exact ended s.port.dataOut
  | some x =>
    have leads := hw.leadsTo (List.mem_of_getElem? latched)
    cases supply : s.supply.state with
    | running => rw [State.frame_live latched (.inl supply)]; exact hl x leads (.inl supply)
    | starting => rw [State.frame_live latched (.inr supply)]; exact hl x leads (.inr supply)
    | stopping => rw [State.frame_stopping latched supply]; exact ended _
    | retaining => rw [State.frame_powerless latched (.inl supply)]; exact ended _
    | unpowered => rw [State.frame_powerless latched (.inr supply)]; exact ended _

/-- In RUNNING and STARTING the end of a frame may change the flags of the port and what it shifted out (R176, R177). -/
theorem State.portWf_flags {p p' : Port} (hw : ({ s with port := p } : State).portWf)
    (live : s.supply.state = .running ∨ s.supply.state = .starting) (state : p'.state = p.state)
    (request : p'.request = p.request) (response : p'.response = p.response) (ended : p'.earlier = []) :
    ({ s with port := p' } : State).portWf := by
  obtain ⟨isIdle, isReady, isBusy, ofPort, powered, waits, -, -⟩ := hw
  refine ⟨?_, ?_, ?_, ?_, powered, waits, fun g g' => (live.elim g g').elim, by simp [ended]⟩
  · simpa only [Port.empty, state, request, response] using isIdle
  · simpa only [state, request, response] using isReady
  · simpa only [state, request, response] using isBusy
  · simpa only [state, request, response] using ofPort

/-- While the port is not BUSY the engine holds no request of it in RUNNING (R27, R31). -/
theorem State.portWf.notOfPort (hw : s.portWf) (free : s.port.state ≠ .busy) (running : s.supply.state = .running) :
    ∀ h ∈ s.hold, h.ofPort = false := by
  obtain ⟨-, -, -, ofPort, -⟩ := hw
  intro h held
  by_contra port
  exact free (ofPort h held (by simpa using port) running).1

/-- A complete frame makes an IDLE port BUSY with its request in RUNNING; any other port refuses it with OVERRUN (R178). -/
theorem State.portWf_acceptRunning {p : Port} (hw : ({ s with port := p } : State).portWf)
    (running : s.supply.state = .running) (ended : p.earlier = []) (f : Frame) :
    ({ s with port := p.acceptRunning f } : State).portWf := by
  have notOfPort := hw.notOfPort (running := running)
  cases state : p.state with
  | busy | ready =>
    simp only [Port.acceptRunning, state]
    exact State.portWf_flags hw (.inl running) state.symm rfl rfl ended
  | idle =>
    simp only [Port.acceptRunning, state]
    obtain ⟨isIdle, -, -, -, powered, waits, -, -⟩ := hw
    refine ⟨nofun, nofun, fun _ => ⟨(isIdle state).2, running, nofun⟩, fun h held port => ?_, powered, waits,
      by simp [running], by simp [ended]⟩
    simp [notOfPort (by simp [state]) h held] at port

/-- In STARTING it makes an IDLE port READY with the port's own response (R181). -/
theorem State.portWf_acceptStarting {p : Port} (hw : ({ s with port := p } : State).portWf)
    (starting : s.supply.state = .starting) (ended : p.earlier = []) (f : Frame) :
    ({ s with port := p.acceptStarting f } : State).portWf := by
  cases state : p.state with
  | busy | ready =>
    simp only [Port.acceptStarting, state]
    exact State.portWf_flags hw (.inr starting) state.symm rfl rfl ended
  | idle =>
    simp only [Port.acceptStarting, state]
    obtain ⟨isIdle, -, -, -, powered, waits, -, -⟩ := hw
    exact ⟨nofun, fun _ => ⟨(isIdle state).1, rfl⟩, nofun, by simp [starting], powered, waits, by simp [starting],
      by simp [ended]⟩

theorem State.portWf_judgeFrame (hw : s.portWf) (live : s.supply.state = .running ∨ s.supply.state = .starting) (x : Status)
    (bits : List Bool) : (s.judgeFrame x bits).portWf := by
  have reported (overrun torn : Bool) (out : List Bool) :
      ({ s with port := { s.port with overrun := overrun, torn := torn, earlier := [], dataOut := out } } : State).portWf :=
    State.portWf_flags (p := s.port) hw live rfl rfl rfl rfl
  unfold State.judgeFrame
  rw [Port.flagsReported_eq]
  dsimp only [Port.frameEnded]
  split
  · exact reported ..
  next f _ =>
    split
    next starting => exact State.portWf_acceptStarting (reported ..) starting rfl f
    next other => exact State.portWf_acceptRunning (reported ..) (live.resolve_right other) rfl f

/-- A READ frame that shifts out the whole response leaves the port IDLE and empty (R179). -/
theorem State.portWf_readFrame {x : Status} (hw : s.portWf) (live : s.supply.state = .running ∨ s.supply.state = .starting)
    (leads : x.leadsTo s.status) (clocks : Nat) : (s.readFrame x clocks).portWf := by
  unfold State.readFrame
  rw [Port.flagsReported_eq]
  dsimp only
  split
  next read =>
    obtain ⟨latched, -⟩ := read
    have ready : s.port.state = .ready := by
      obtain ⟨-, -, -, port⟩ := leads
      rcases port with same | ⟨busy, -⟩
      · exact same.symm.trans latched
      · exact absurd (busy.symm.trans latched) (by simp)
    have notOfPort := hw.notOfPort (by simp [ready])
    obtain ⟨-, isReady, -, -, powered, waits, -, -⟩ := hw
    refine ⟨fun _ => ⟨(isReady ready).1, rfl⟩, nofun, nofun, fun h held port running => ?_, powered, waits,
      fun g g' => (live.elim g g').elim, nofun⟩
    simp [notOfPort running h held] at port
  next => exact State.portWf_flags (p := s.port) hw live rfl rfl rfl rfl

theorem State.portWf_readAny (hw : s.portWf) (before clocks : Nat) : (s.readAny before clocks).portWf :=
  State.portWf_frame hw fun _ leads live => State.portWf_readFrame hw live leads clocks

theorem execRequestFrame_portWf {frame : FrameIn} (hw : s.portWf) (h : execRequestFrame frame s = .next s') :
    s'.portWf := by
  unfold execRequestFrame at h
  split at h
  · cases h; exact hw
  split at h
  · cases h; exact State.portWf_readAny hw _ _
  · cases h; exact State.portWf_frame hw fun x _ live => State.portWf_judgeFrame hw live x frame.bits

/-! ## Stops, starts and restarts -/

/-- A port with its start values and an idle engine agree in every supply state (R181). -/
theorem State.portWf_started (port : s.port = .started) (idle : s.hold = none) (noRestart : s.supply.resetWaiting = false) :
    s.portWf := by
  simp [State.portWf, Port.empty, port, idle, noRestart, Port.started]

/-- A stop empties the port, lets no restart wait, and leaves what the engine holds (R33, R181, R188). -/
theorem State.portWf_stop (s : State) : s.stop.portWf := by
  simp [State.portWf, Port.empty, Port.stopped]

theorem State.portWf_orUnpowered {holds : Bool} (hw : s.portWf) : (s.orUnpowered holds).portWf := by
  cases holds
  · exact State.portWf_started rfl rfl rfl
  · exact hw

theorem execMainSupplyGoodRise_portWf {failWarning cellLow : Bool} (hw : s.portWf)
    (h : execMainSupplyGoodRise failWarning cellLow s = .next s') : s'.portWf := by
  unfold execMainSupplyGoodRise at h
  split at h
  case h_4 | h_5 =>
    cases h
    cases failWarning
    · exact State.portWf_started rfl rfl rfl
    · exact State.portWf_stop _
  all_goals
    cases h
    exact hw

/-- The end of STARTING: what the port was given there stays, and frames begun there have latched STARTING (R176, R181). -/
theorem execStartComplete_portWf (hw : s.portWf) (h : execStartComplete s = .next s') : s'.portWf := by
  unfold execStartComplete at h
  split at h
  case h_1 starting =>
    cases h
    have leads {x : Status} := hw.leadsTo (x := x)
    obtain ⟨isIdle, isReady, isBusy, -, powered, waits, -, -⟩ := hw
    have idle : s.hold = none := by simpa [starting] using powered
    refine ⟨isIdle, isReady, fun busy => ?_, by simp [idle], fun _ => .inl rfl, fun _ => rfl, by simp, fun x hx => ?_⟩
    · simpa [starting] using (isBusy busy).2.1
    · obtain ⟨overrun, torn, supply, port⟩ := leads hx
      refine ⟨overrun, torn, .inr ⟨?_, rfl⟩, port⟩
      exact supply.elim (fun same => same.trans starting) And.left
  all_goals
    cases h
    exact hw

theorem execFailWarningRise_portWf (hw : s.portWf) (h : execFailWarningRise s = .next s') : s'.portWf := by
  unfold execFailWarningRise at h
  split at h
  case h_1 | h_2 => cases h; exact State.portWf_stop s
  all_goals
    cases h
    exact hw

theorem execMainSupplyGoodFall_portWf {fall : SupplyFall} (hw : s.portWf) (h : execMainSupplyGoodFall fall s = .next s') :
    s'.portWf := by
  have retained (s : State) (settings : LineNo → Settings) : (s.retained settings).portWf :=
    State.portWf_started rfl rfl rfl
  unfold execMainSupplyGoodFall at h
  split at h
  case h_1 | h_2 => cases h; exact hw
  case h_3 => cases h; exact State.portWf_orUnpowered (retained ..)
  case h_4 | h_5 =>
    split at h
    · cases h; exact State.portWf_orUnpowered (retained ..)
    · cases h; exact State.portWf_orUnpowered (retained ..)

theorem execBackupLowChange_portWf {low : Bool} (hw : s.portWf) (h : execBackupLowChange low s = .next s') : s'.portWf := by
  unfold execBackupLowChange at h
  split at h <;> cases h <;> exact State.portWf_of_control hw rfl

theorem execResetAssert_portWf (hw : s.portWf) (h : execResetAssert s = .next s') : s'.portWf := by
  obtain rfl := Host.Outcome.next.inj h
  split
  next running =>
    obtain ⟨isIdle, isReady, isBusy, ofPort, powered, -, still, earlier⟩ := hw
    exact ⟨isIdle, isReady, fun busy => ⟨(isBusy busy).1, running, fun _ => .inl rfl⟩, ofPort, powered, fun _ => running,
      still, earlier⟩
  next => exact hw

theorem execResetRestart_portWf (hw : s.portWf) (h : execResetRestart s = .next s') : s'.portWf := by
  obtain rfl := Host.Outcome.next.inj h
  split
  next waits =>
    have idle : s.hold = none := by simp at waits; exact waits.2
    exact State.portWf_started rfl idle rfl
  next => exact hw

/-! ## The commands -/

/-- A command that changes neither port nor hold nor supply monitor, or is out of turn. -/
theorem portWf_of_next_ite {c : Prop} [Decidable c] {a : State} (hw : s.portWf) (h : Host.Outcome.next (if c then a else s) =
    (.next s' : Host.Outcome State Fault Refusal)) (ha : a.control = s.control) : s'.portWf := by
  obtain rfl := Host.Outcome.next.inj h
  split
  · exact State.portWf_of_control hw ha
  · exact hw

/-- What is on its way to a line does not count for the grant (R28). -/
theorem State.send_grantedRequest (s : State) (n : LineNo) (i : LineItem) :
    (s.send n i).grantedRequest = s.grantedRequest := by
  have ready : (s.send n i).ready = s.ready := by
    funext r
    cases r with
    | line m =>
      by_cases same : m = n
      · subst same
        simp [State.ready]
      · simp [State.ready, Lines.get_put_other _ same]
    | port | expiryPass | settlementPass => rfl
  have grant : (s.send n i).grant = s.grant := by
    unfold State.grant
    rw [ready]
    rfl
  unfold State.grantedRequest State.grantedFrame
  rw [grant]
  rfl

theorem State.portWf_send (hw : s.portWf) (n : LineNo) (i : LineItem) : (s.send n i).portWf :=
  State.portWf_of_control hw rfl

/-- Every command keeps the agreement, a delivery and a read command through what the lines say of the hold. -/
theorem exec_portWf {c : Instr} (hw : s.portWf) (hl : s.linesWf) (h : exec c s = .next s') : s'.portWf := by
  cases c
  -- requests that are answered in one step
  case enrolKit | lookupKit | suspendKit | resumeKit | setKitKey | retireKit | definePlan | amendPlan | readPlan | releasePlan
    | pay | confirm | reverse | openAgent | amendAgent | readAgent | barAgent | unbarAgent | closeAgent | clearWatermark
    | tableSummary | readTime | readAttention =>
    simp only [exec, execEnrolKit, execLookupKit, execSuspendKit, execResumeKit, execSetKitKey, execRetireKit,
      execDefinePlan, execAmendPlan, execReadPlan, execReleasePlan, execPay, execConfirm, execReverse, execOpenAgent,
      execAmendAgent, execReadAgent, execBarAgent, execUnbarAgent, execCloseAgent, execClearWatermark, execTableSummary,
      execReadTime, execReadAttention] at h
    split at h
    next granted => exact State.answer_portWf hw granted h
    next => cases h; exact hw
  case movePlan | takeNotices | nextDue =>
    simp only [exec, execMovePlan, execTakeNotices, execNextDue] at h
    split at h
    next granted => split at h <;> exact State.answer_portWf hw granted h
    next => cases h; exact hw
  case unknownRequestKind =>
    simp only [exec, execUnknownRequestKind] at h
    split at h
    · cases h; exact hw
    next granted =>
      split at h
      · cases h; exact hw
      · have grant := (State.grantedFrame_spec granted).1
        rw [State.answer_of_grant grant] at h
        cases h
        exact State.portWf_responded hw grant _ _
  -- requests that the engine may go on holding
  case setTime | alignMinute | setAttentionMask =>
    simp only [exec, execSetTime, execAlignMinute, execSetAttentionMask] at h
    split at h
    next granted =>
      split at h
      · exact State.answer_portWf hw granted h
      · cases h; exact State.portWf_holdPort hw granted rfl
    next => cases h; exact hw
  case setRegulation =>
    simp only [exec, execSetRegulation] at h
    split at h
    next granted =>
      split at h
      · cases h; exact State.portWf_holdPort hw granted rfl
      · exact State.answer_portWf hw granted h
    next => cases h; exact hw
  -- requests that send something to a line
  case setLine =>
    simp only [exec, execSetLine] at h
    split at h
    next granted =>
      split at h
      · exact State.answer_portWf (State.portWf_send hw ..) ((State.send_grantedRequest ..).trans granted) h
      · exact State.answer_portWf hw granted h
    next => cases h; exact hw
  case readLine =>
    simp only [exec, execReadLine] at h
    split at h
    next granted =>
      split at h
      · cases h
        exact State.portWf_holdPort (State.portWf_send hw ..) ((State.send_grantedRequest ..).trans granted) rfl
      · exact State.answer_portWf hw granted h
    next => cases h; exact hw
  case checkIn | topUp | status =>
    simp only [exec, execCheckIn, execTopUp, execStatus] at h
    split at h
    next granted => exact State.handle_portWf hw granted h
    next => cases h; exact hw
  case expiryPass | settlementPass =>
    simp only [exec, execExpiryPass, execSettlementPass, State.passOver] at h
    split at h
    next =>
      split at h
      · cases h
      · cases h; exact State.portWf_of_control hw rfl
    next => cases h; exact hw
  case requestFrame => exact execRequestFrame_portWf hw h
  case readFrame => exact Host.Outcome.next.inj h ▸ State.portWf_readAny hw _ _
  -- events of the calendar and the lines
  case timebaseStep | regulationHoldEnd | receiveCharacter | gapTimeout | replyBegin | replyEnd =>
    exact portWf_of_next_ite hw h rfl
  case settingsCommand =>
    simp only [exec, execSettingsCommand] at h
    split at h <;> cases h
    · exact State.portWf_of_control hw rfl
    · exact hw
  -- arrivals of what the engine holds
  case timeLoad | alignCommand | regulationWrite | maskWrite =>
    simp only [exec, execTimeLoad, execAlignCommand, execRegulationWrite, execMaskWrite] at h
    split at h <;> cases h
    next holds => exact State.portWf_complete hw holds rfl (by rfl) _
    next => exact hw
  case readCommand =>
    simp only [exec, execReadCommand] at h
    split at h <;> cases h
    next read => exact State.portWf_complete hw (State.hold_of_read hl read) rfl (by rfl) _
    next => exact hw
  case lineDelivery =>
    simp only [exec, execLineDelivery] at h
    split at h <;> cases h
    next delivery =>
      have before : ∀ h ∈ s.hold, h.ofPort = false := by simp [State.hold_of_delivery hl delivery, Hold.ofPort]
      exact State.portWf_of_control (State.portWf_message hw before (hold := none) nofun nofun) rfl
    next => exact hw
  case mainSupplyGoodRise => exact execMainSupplyGoodRise_portWf hw h
  case startComplete => exact execStartComplete_portWf hw h
  case failWarningRise => exact execFailWarningRise_portWf hw h
  case mainSupplyGoodFall => exact execMainSupplyGoodFall_portWf hw h
  case backupBelowRetention =>
    obtain rfl := Host.Outcome.next.inj h
    split
    · exact State.portWf_started rfl rfl rfl
    · exact hw
  case backupLowChange => exact execBackupLowChange_portWf hw h
  case resetAssert => exact execResetAssert_portWf hw h
  case resetRestart => exact execResetRestart_portWf hw h

end

/-- Settles O58, command by command: each shared ending of a command keeps the agreement. -/
theorem portStaysCoherent : Obligations.PortStaysCoherent := fun _ _ _ hw hl h => exec_portWf hw hl h

end Sys2Proof.Machine

/-! # The queue of commands -/

namespace Sys2Proof.Machine

/-- Settles O1: both halves are the two arms of `step`. -/
theorem stepTakesFrontCommand : Obligations.StepTakesFrontCommand :=
  ⟨fun _ _ _ => rfl, fun s h => by simp only [step, h]⟩

/-- The state with another queue of commands waiting. -/
def State.withQueue (s : State) (q : List Instr) : State := { s with pending := q }

/-- The outcome of a command that had another queue waiting behind it. -/
def requeued (q : List Instr) : Host.Outcome State Fault Refusal → Host.Outcome State Fault Refusal
  | .next s => .next (s.withQueue q)
  | .fault r => .fault r
  | .refused r => .refused r

section
variable (s : State) (q : List Instr)

/-! ## What is read of a state does not look at its queue -/

@[simp] theorem State.withQueue_engine : (s.withQueue q).engine = s.engine := rfl
@[simp] theorem State.withQueue_hold : (s.withQueue q).hold = s.hold := rfl
@[simp] theorem State.withQueue_calendar : (s.withQueue q).calendar = s.calendar := rfl
@[simp] theorem State.withQueue_lines : (s.withQueue q).lines = s.lines := rfl
@[simp] theorem State.withQueue_supply : (s.withQueue q).supply = s.supply := rfl
@[simp] theorem State.withQueue_instant : (s.withQueue q).instant = s.instant := rfl
@[simp] theorem State.withQueue_grant : (s.withQueue q).grant = s.grant := rfl
@[simp] theorem State.withQueue_grantedFrame : (s.withQueue q).grantedFrame = s.grantedFrame := rfl
@[simp] theorem State.withQueue_grantedRequest : (s.withQueue q).grantedRequest = s.grantedRequest := rfl
@[simp] theorem State.withQueue_grantedMessage : (s.withQueue q).grantedMessage = s.grantedMessage := rfl
@[simp] theorem State.withQueue_latched (before : Nat) : (s.withQueue q).latched before = s.latched before := rfl
@[simp] theorem State.withQueue_holdsAt (fall : SupplyFall) : (s.withQueue q).holdsAt fall = s.holdsAt fall := rfl

/-! ## The endings of a command leave the queue that was there -/

theorem State.withQueue_deliver (r : Response) : (s.withQueue q).deliver r = (s.deliver r).withQueue q := by
  unfold State.deliver
  rw [State.withQueue_supply]
  split <;> rfl

theorem State.withQueue_complete {acted acted' : State} (h : acted' = acted.withQueue q) (r : Response) :
    acted'.complete r = (acted.complete r).withQueue q :=
  h ▸ State.withQueue_deliver { acted with hold := none } q r

/-- A command that acts on a condition, and is otherwise out of turn. -/
theorem requeued_next_ite {c : Prop} [Decidable c] {acted acted' : State} (h : acted' = acted.withQueue q) :
    .next (if c then acted' else s.withQueue q) = requeued q (.next (if c then acted else s)) := by
  split
  · exact congrArg Host.Outcome.next h
  · rfl

theorem State.withQueue_answer (work : Handled) : (s.withQueue q).answer work = requeued q (s.answer work) := by
  cases work with
  | none => rfl
  | some left => exact congrArg Host.Outcome.next (State.withQueue_deliver { s.takePort with engine := left.1 } q left.2)

theorem State.withQueue_handle (n : LineNo) (work : MessageWork) :
    (s.withQueue q).handle n work = requeued q (s.handle n work) := by
  match work with
  | none => rfl
  | some (e, none) => rfl
  | some (e, some d) => rfl

theorem State.withQueue_frame {before clocks : Nat} {live live' : Status → State}
    (h : ∀ x, live' x = (live x).withQueue q) :
    (s.withQueue q).frame before clocks live' = (s.frame before clocks live).withQueue q := by
  unfold State.frame
  rw [State.withQueue_latched, State.withQueue_supply]
  cases s.latched before with
  | none => rfl
  | some x =>
    cases s.supply.state
    · rfl
    · rfl
    · exact h x
    · exact h x
    · rfl

theorem State.withQueue_judgeFrame (x : Status) (bits : List Bool) :
    (s.withQueue q).judgeFrame x bits = (s.judgeFrame x bits).withQueue q := by
  unfold State.judgeFrame
  dsimp only
  split <;> rfl

theorem State.withQueue_readAny (before clocks : Nat) :
    (s.withQueue q).readAny before clocks = (s.readAny before clocks).withQueue q :=
  State.withQueue_frame s q fun _ => rfl

theorem execRequestFrame_withQueue (frame : FrameIn) :
    execRequestFrame frame (s.withQueue q) = requeued q (execRequestFrame frame s) := by
  unfold execRequestFrame
  split
  · rfl
  split
  · exact congrArg Host.Outcome.next (State.withQueue_readAny ..)
  · exact congrArg Host.Outcome.next (State.withQueue_frame s q fun x => State.withQueue_judgeFrame s q x _)

theorem execMainSupplyGoodRise_withQueue (failWarning cellLow : Bool) :
    execMainSupplyGoodRise failWarning cellLow (s.withQueue q) =
      requeued q (execMainSupplyGoodRise failWarning cellLow s) := by
  unfold execMainSupplyGoodRise
  rw [State.withQueue_supply]
  split
  case h_4 | h_5 => cases s.supply.mark <;> cases failWarning <;> rfl
  all_goals rfl

theorem execMainSupplyGoodFall_withQueue (fall : SupplyFall) :
    execMainSupplyGoodFall fall (s.withQueue q) = requeued q (execMainSupplyGoodFall fall s) := by
  obtain ⟨cellHolds, taken⟩ := fall
  unfold execMainSupplyGoodFall
  rw [State.withQueue_supply, State.withQueue_holdsAt]
  split
  case h_1 | h_2 => rfl
  case h_3 => cases cellHolds <;> rfl
  case h_4 | h_5 => split <;> cases cellHolds <;> rfl

theorem exec_withQueue (c : Instr) : exec c (s.withQueue q) = requeued q (exec c s) := by
  cases c
  -- host requests
  case enrolKit | lookupKit | suspendKit | resumeKit | setKitKey | retireKit | definePlan | amendPlan | readPlan | releasePlan
    | pay | confirm | reverse | openAgent | amendAgent | readAgent | barAgent | unbarAgent | closeAgent | clearWatermark
    | tableSummary | readTime | readAttention =>
    simp only [exec, execEnrolKit, execLookupKit, execSuspendKit, execResumeKit, execSetKitKey, execRetireKit,
      execDefinePlan, execAmendPlan, execReadPlan, execReleasePlan, execPay, execConfirm, execReverse, execOpenAgent,
      execAmendAgent, execReadAgent, execBarAgent, execUnbarAgent, execCloseAgent, execClearWatermark, execTableSummary,
      execReadTime, execReadAttention, State.withQueue_grantedRequest]
    split
    · exact State.withQueue_answer ..
    · rfl
  case takeNotices | nextDue =>
    simp only [exec, execTakeNotices, execNextDue, State.withQueue_grantedRequest]
    split
    · rw [apply_ite (requeued q), ← State.withQueue_answer, ← State.withQueue_answer]
      rfl
    · rfl
  case movePlan =>
    simp only [exec, execMovePlan, State.withQueue_grantedRequest, State.withQueue_engine]
    split
    · split
      · exact State.withQueue_answer ..
      · exact State.withQueue_answer ..
    · rfl
  case setTime | alignMinute | setAttentionMask =>
    simp only [exec, execSetTime, execAlignMinute, execSetAttentionMask, State.withQueue_grantedRequest,
      State.withQueue_calendar]
    split
    · split
      · exact State.withQueue_answer ..
      · rfl
    · rfl
  case setRegulation | readLine =>
    simp only [exec, execSetRegulation, execReadLine, State.withQueue_grantedRequest]
    split
    · split
      · rfl
      · exact State.withQueue_answer ..
    · rfl
  case setLine =>
    simp only [exec, execSetLine, State.withQueue_grantedRequest]
    split
    · split
      · exact State.withQueue_answer (s.send _ _) q _
      · exact State.withQueue_answer ..
    · rfl
  case unknownRequestKind =>
    simp only [exec, execUnknownRequestKind, State.withQueue_grantedFrame]
    split
    · rfl
    · split
      · rfl
      · exact State.withQueue_answer ..
  -- line messages and passes
  case checkIn | topUp | status =>
    simp only [exec, execCheckIn, execTopUp, execStatus, State.withQueue_grantedMessage]
    split
    · exact State.withQueue_handle ..
    · rfl
  case expiryPass | settlementPass =>
    simp only [exec, execExpiryPass, execSettlementPass, State.withQueue_grant, State.withQueue_engine, State.passOver,
      State.withQueue_instant]
    split
    · split <;> rfl
    · rfl
  -- frames
  case requestFrame => exact execRequestFrame_withQueue ..
  case readFrame => exact congrArg Host.Outcome.next (State.withQueue_readAny ..)
  -- events of the calendar and the lines
  case timebaseStep | regulationHoldEnd | receiveCharacter | gapTimeout | replyBegin | replyEnd =>
    exact requeued_next_ite s q rfl
  case settingsCommand | lineDelivery =>
    simp only [exec, execSettingsCommand, execLineDelivery, State.withQueue_lines]
    split <;> rfl
  -- arrivals of what the engine holds
  case timeLoad | alignCommand | regulationWrite | maskWrite =>
    simp only [exec, execTimeLoad, execAlignCommand, execRegulationWrite, execMaskWrite, State.withQueue_hold]
    split
    · exact congrArg Host.Outcome.next (State.withQueue_complete q (by rfl) _)
    · rfl
  case readCommand =>
    simp only [exec, execReadCommand, State.withQueue_lines]
    split
    · exact congrArg Host.Outcome.next (State.withQueue_complete q (by rfl) _)
    · rfl
  -- events of the supply
  case mainSupplyGoodRise => exact execMainSupplyGoodRise_withQueue ..
  case mainSupplyGoodFall => exact execMainSupplyGoodFall_withQueue ..
  case startComplete | failWarningRise | backupLowChange =>
    simp only [exec, execStartComplete, execFailWarningRise, execBackupLowChange, State.withQueue_supply]
    split <;> rfl
  case backupBelowRetention | resetAssert | resetRestart => exact requeued_next_ite s q rfl

end

/-- Settles O2: a command that had another queue behind it leaves the same state with that queue. -/
theorem commandsIgnoreTheQueue : Obligations.CommandsIgnoreTheQueue := fun c s _ q h =>
  (exec_withQueue s q c).trans (congrArg (requeued q) h)

end Sys2Proof.Machine

/-! # PAY refused, REVERSE, and the requests on an agent -/

namespace Sys2Proof.Machine

/-! ## PAY refused (R34, R67) -/

section
variable {w : Work} {calendar : CalendarState} {amount t : Nat}

theorem Work.pay_unset (h : calendar = .unset) : w.pay calendar amount t = w.refuse .timeUnset := if_pos h

theorem Work.pay_owned (known : calendar = .known) (ho : w.record.state = .owned) :
    w.pay calendar amount t = w.refuse .wrongState :=
  (if_neg (by simp [known])).trans (if_pos ho)

theorem Work.pay_belowMinimum (known : calendar = .known) (ho : w.record.state ≠ .owned) (low : amount < w.plan.minimum) :
    w.pay calendar amount t = w.refuse .belowMinimum :=
  (if_neg (by simp [known])).trans ((if_neg ho).trans (if_pos low))

theorem Work.pay_capExceeded (known : calendar = .known) (ho : w.record.state ≠ .owned) (least : w.plan.minimum ≤ amount)
    (short : ¬(0 < w.plan.price ∧ w.plan.price ≤ w.record.confirmed + amount))
    (refused : convert w.plan amount (if w.plan.rounding = .carry then w.record.residue else 0) (w.record.base t) t = none) :
    w.pay calendar amount t = w.refuse .capExceeded := by
  refine (Work.pay_admitted known ho least).trans ((if_neg (mt Record.completesPrice_iff.1 short)).trans ?_)
  rw [residueEntering_eq, refused]

end

/-- Settles O19: each refusal of R67 on the record that bringing current left. -/
theorem payRefuses : Obligations.PayRefuses := by
  intro s kit amount w h low high found w' refused
  have refuse {result : Result} (work : w'.pay s.calendar.state amount s.instant = w'.refuse result) :
      exec .pay s = refused result :=
    (exec_pay h).trans (State.answer_found h low high rfl found work)
  exact ⟨fun unset => refuse (Work.pay_unset unset), fun known ho => refuse (Work.pay_owned known ho),
    fun known ho below => refuse (Work.pay_belowMinimum known ho below),
    fun known ho least short cap => refuse (Work.pay_capExceeded known ho least short cap)⟩

/-! ## REVERSE (R77, R78, R80) -/

theorem Work.reverse_unknown {w : Work} {reference t : Nat} (h : findEntry reference w.record.pending = none) :
    w.reverse reference t = w.refuse .unknownReference := by
  simp only [Work.reverse, h]

theorem Work.reverse_found {w : Work} {reference t : Nat} {en : Entry}
    (h : findEntry reference w.record.pending = some en) :
    w.reverse reference t = (w.reverseNow en t).done
      [wordField en.reference, byteField en.agent, wordField en.amount,
        wordField (if w.record.state = .owned then 0 else en.minutes), minuteField (w.reverseNow en t).record.paid,
        stateField (some (w.reverseNow en t).record.state), wordField (w.reverseNow en t).record.overhang] := by
  simp only [Work.reverse, h]

/-- Reversing an entry of an OWNED record takes the entry alone (R78). -/
theorem Work.reverseNow_owned {w : Work} (h : w.record.state = .owned) (en : Entry) (t : Nat) :
    w.reverseNow en t = w.takeEntry en (fun a => a.unsettle en.amount) :=
  (if_pos h).trans (if_pos h)

/-- The tables after an entry has been taken, the changed agents named. -/
theorem Work.takeEntry_engine (w : Work) (en : Entry) (f : Agent → Agent) :
    (w.takeEntry en f).engine = { w.engine with
      agents := (w.takeEntry en f).engine.agents, poolFree := w.engine.poolFree + 1
      settlement := settleRemove w.record.kit en.reference w.engine.settlement } :=
  Engine.changeAgent_eq ..

/-- Settles O22: the refusal, the OWNED record, and the record whose minutes are taken back. -/
theorem reverseTakesMinutesBack : Obligations.ReverseTakesMinutesBack := by
  intro s kit reference w h low high nonzero found t
  have run {e : Engine} {result : Result} {fields : List Field}
      (work : (w.current t).reverse reference t = (e, result, fields)) :
      exec .reverse s = .next (s.responded e ⟨0x22, result, wordField kit :: fields⟩) :=
    (exec_reverse h).trans (State.answer_found h low high (by simpa using nonzero) found work)
  generalize w.current t = w at run
  intro w'
  refine ⟨fun absent => run (Work.reverse_unknown absent), fun en held => ?_⟩
  obtain rfl := findEntry_reference held
  have taken := w'.takeEntry_engine en (fun a => a.unsettle en.amount)
  have work := Work.reverse_found (t := t) held
  refine ⟨(w'.takeEntry en (fun a => a.unsettle en.amount)).engine.agents, w'.takeEntry_agents en _, ?_⟩
  intro rest e answered
  refine ⟨fun ho => ?_, fun ho => ?_⟩
  · rw [if_pos ho, Work.reverseNow_owned ho, Work.done, Work.commit, taken] at work
    exact run work
  · have changed : (w'.dropEntry en).engine.changeAgent en.agent (fun a => a.unsettle en.amount) = _ := taken
    have reversed := Work.reverseNow_eq ho en t
    rw [changed] at reversed
    rw [if_neg ho, reversed] at work
    exact run work

/-! ## Requests on agents (R34, R89, R94, R98 to R100) -/

section
variable {e : Engine} {agent : Nat} {work : Agent → AgentWorked}

theorem Engine.onAgent_badField (h : ¬(1 ≤ agent ∧ agent ≤ 64)) : e.onAgent agent true work = (e, .badField, []) :=
  if_pos (by simp [Bool.eq_false_iff.2 (mt agentInRange_iff.1 h)])

theorem Engine.onAgent_closed (low : 1 ≤ agent) (high : agent ≤ 64) (closed : e.agents.get agent = none) :
    e.onAgent agent true work = (e, .unknownAgent, []) := by
  simp [Engine.onAgent, agentInRange_iff.2 ⟨low, high⟩, closed]

theorem Engine.onAgent_found {a : Agent} (low : 1 ≤ agent) (high : agent ≤ 64) (found : e.agents.get agent = some a) :
    e.onAgent agent true work = work a := by
  simp [Engine.onAgent, agentInRange_iff.2 ⟨low, high⟩, found]

end

section
variable {s : State} {agent : Nat}

theorem exec_readAgent (h : s.grantedRequest = some (.readAgent agent)) :
    exec .readAgent s = s.answer (some ((s.engine.readAgent agent).1,
      agentResponse (.readAgent agent) agent (s.engine.readAgent agent).2.1 (s.engine.readAgent agent).2.2)) := by
  simp only [exec, execReadAgent, h]

theorem exec_barAgent (h : s.grantedRequest = some (.barAgent agent)) :
    exec .barAgent s = s.answer (some ((s.engine.setBarred agent true).1,
      agentResponse (.barAgent agent) agent (s.engine.setBarred agent true).2.1 (s.engine.setBarred agent true).2.2)) := by
  simp only [exec, execBarAgent, h]

theorem exec_unbarAgent (h : s.grantedRequest = some (.unbarAgent agent)) :
    exec .unbarAgent s = s.answer (some ((s.engine.setBarred agent false).1,
      agentResponse (.unbarAgent agent) agent (s.engine.setBarred agent false).2.1
        (s.engine.setBarred agent false).2.2)) := by
  simp only [exec, execUnbarAgent, h]

theorem exec_closeAgent (h : s.grantedRequest = some (.closeAgent agent)) :
    exec .closeAgent s = s.answer (some ((s.engine.closeAgent agent).1,
      agentResponse (.closeAgent agent) agent (s.engine.closeAgent agent).2.1 (s.engine.closeAgent agent).2.2)) := by
  simp only [exec, execCloseAgent, h]

/-- The four requests on an agent share the checks of its number and its slot. -/
theorem exec_onAgent {c : Instr} {r : Request} (h : s.grantedRequest = some r)
    (hr : (c = .readAgent ∧ r = .readAgent agent) ∨ (c = .barAgent ∧ r = .barAgent agent) ∨
      (c = .unbarAgent ∧ r = .unbarAgent agent) ∨ (c = .closeAgent ∧ r = .closeAgent agent)) :
    ∃ work : Agent → AgentWorked, exec c s = s.answer (some ((s.engine.onAgent agent true work).1,
      agentResponse r agent (s.engine.onAgent agent true work).2.1 (s.engine.onAgent agent true work).2.2)) := by
  rcases hr with ⟨rfl, rfl⟩ | ⟨rfl, rfl⟩ | ⟨rfl, rfl⟩ | ⟨rfl, rfl⟩
  · exact ⟨_, exec_readAgent h⟩
  · exact ⟨_, exec_barAgent h⟩
  · exact ⟨_, exec_unbarAgent h⟩
  · exact ⟨_, exec_closeAgent h⟩

end

/-- The agent of the entry that an item of the settlement index stands for, through the record of the kit (R98). -/
theorem Engine.agentOf_eq (e : Engine) (i : SettleItem) :
    e.agentOf i = (e.recordOf i.kit).bind fun r => (findEntry i.reference r.2.pending).map Entry.agent := by
  unfold Engine.agentOf Engine.recordOf
  cases e.directory.get i.kit with
  | none => rfl
  | some slot =>
    dsimp only
    cases e.accounts.get slot <;> rfl

theorem Engine.agentOf_beq (e : Engine) (i : SettleItem) (agent : Nat) :
    (e.agentOf i == some agent) =
      (e.recordOf i.kit).any fun r => (findEntry i.reference r.2.pending).any fun en => en.agent == agent := by
  rw [Engine.agentOf_eq]
  cases e.recordOf i.kit with
  | none => rfl
  | some r =>
    simp only [Option.bind_some, Option.any_some]
    cases findEntry i.reference r.2.pending <;> simp

/-- Settles O24: the refusals that the four requests share, and the report of READ AGENT. -/
theorem readAgentAndRefusals : Obligations.ReadAgentAndRefusals := by
  refine ⟨fun s agent c r h hr => ?_, fun s agent a h low high found => ?_⟩
  · obtain ⟨work, run⟩ := exec_onAgent h hr
    rw [run, State.answer_granted h]
    refine ⟨fun bad => ?_, fun low high closed => ?_⟩
    · rw [Engine.onAgent_badField bad]
      rfl
    · rw [Engine.onAgent_closed low high closed]
      rfl
  · intro mine
    have entries : s.engine.entriesOf agent = mine := by simp only [Engine.entriesOf, Engine.agentOf_beq, mine]
    rw [exec_readAgent h, State.answer_granted h, Engine.readAgent, Engine.onAgent_found low high found,
      Engine.agentFields, entries]
    rfl

end Sys2Proof.Machine

/-! # Deliveries, grants, loss of main supply and the reset input -/

namespace Sys2Proof.Machine

/-! ## A delivery at its line (R31, R33, R162, R174) -/

section
variable {s : State} {n : LineNo} {d : Delivery} {rest : List LineItem}

/-- A delivery on its way arrives, is handled by a line that takes it, and leaves the engine idle. -/
theorem exec_lineDelivery (h : (s.lines.get n).inFlight = .delivery d :: rest) :
    exec (.lineDelivery n) s = .next { s.withLine n
      (if s.takesResponse then (s.lines.get n).receive d else { s.lines.get n with take := .none }).arrived with
        hold := none } := by
  have keep : s.takesResponse = (s.running && !s.supply.resetWaiting) := rfl
  simp only [exec, execLineDelivery, h, State.onLine_eq, keep]

end

/-- Settles O35: a delivery is queued or written with the marker CURRENT at a line that takes it, else discarded. -/
theorem lineDeliveryArrives : Obligations.LineDeliveryArrives := by
  intro s n d rest h l done
  obtain rfl : (s.lines.get n).inFlight.tail = rest := by rw [h]; rfl
  have run := exec_lineDelivery h
  refine ⟨fun takes current => ⟨fun r hr => ?_, fun x hx => ?_⟩, fun discards => ?_⟩
  · rw [if_pos takes, hr, Line.receive_reply current] at run
    exact run
  · rw [if_pos takes, hx, Line.receive_mark current] at run
    exact run
  · have discarded : (if s.takesResponse then (s.lines.get n).receive d else { s.lines.get n with take := .none }) =
        { s.lines.get n with take := .none } := by
      rcases discards with stopped | stale
      · simp [stopped]
      · rw [Line.receive_stale stale, ite_self]
    rw [discarded] at run
    exact run

/-! ## The grant and the passes (R27 to R29, R32, R109, R110) -/

section
variable {s : State}

theorem State.grant_of_not_granting
    (h : ¬(s.supply.state = .running ∧ s.supply.resetWaiting = false ∧ s.hold = none)) : s.grant = none :=
  if_neg (mt State.granting_iff.1 h)

/-- The grant goes once round from the pointer (R29). -/
theorem State.grant_of_granting {i : Nat} (h : s.supply.state = .running ∧ s.supply.resetWaiting = false ∧ s.hold = none)
    (pointer : requesters[i]? = some s.pointer) :
    s.grant = (requesters.drop i ++ requesters.take i).find? s.ready := by
  rw [← Requester.circle_eq pointer]
  exact if_pos (State.granting_iff.2 h)

theorem State.ready_expiryPass : s.ready .expiryPass = true ↔ s.calendar.state = .known ∧
    ∃ d rest, s.engine.expiry = d :: rest ∧ d.instant ≤ s.calendar.districtMinute := by
  simp only [State.ready, State.expiryDue, Bool.and_eq_true, beq_iff_eq]
  cases s.engine.expiry <;> simp

theorem State.ready_settlementPass : s.ready .settlementPass = true ↔ s.calendar.state = .known ∧
    ∃ i rest, s.engine.settlement = i :: rest ∧ i.deadline ≤ s.calendar.districtMinute := by
  simp only [State.ready, State.settlementDue, Bool.and_eq_true, beq_iff_eq]
  cases s.engine.settlement <;> simp

/-- A pass over a kit that is found brings its record current (R32). -/
theorem State.passOver_found {w : Work} {kit : Nat} (found : s.engine.find kit = .found w) (r : Requester) :
    s.passOver r kit = .next { s with engine := (w.current s.instant).commit, pointer := r.next } := by
  simp only [State.passOver, Engine.bringCurrent, found]

end

/-- Settles O47: who is ready, to whom the grant goes, and what a pass grant leaves. -/
theorem passesBringHeadCurrent : Obligations.PassesBringHeadCurrent := by
  refine ⟨fun s => ⟨State.grant_of_not_granting, fun _ granting pointer => State.grant_of_granting granting pointer,
    State.ready_port, fun _ => State.ready_line, State.ready_expiryPass, State.ready_settlementPass⟩, fun s w =>
    ⟨fun d rest grant head found => ?_, fun i rest grant head found => ?_⟩⟩
  · simp only [exec, execExpiryPass, grant, head, State.passOver_found found, Requester.next]
  · simp only [exec, execSettlementPass, grant, head, State.passOver_found found, Requester.next]

/-! ## The reset input (R33, R174, R181, R188) -/

/-- Settles O51: the assertion, the grant it holds back, and the restart in and out of turn. -/
theorem resetInputRestarts : Obligations.ResetInputRestarts := by
  refine fun s => ⟨fun running => ⟨?_, ?_⟩, fun elsewhere => ?_, fun running waits idle => ?_, fun outOfTurn => ?_⟩
  · exact congrArg Host.Outcome.next (if_pos running)
  · exact State.grant_of_not_granting (by simp)
  · exact congrArg Host.Outcome.next (if_neg elsewhere)
  · exact congrArg Host.Outcome.next (if_pos (by simp [running, waits, idle]))
  · refine congrArg Host.Outcome.next (if_neg fun inTurn => ?_)
    simp only [Bool.and_eq_true, decide_eq_true_eq, Option.isNone_iff_eq_none] at inTurn
    obtain ⟨⟨running, waits⟩, idle⟩ := inTurn
    simp [running, waits, idle] at outOfTurn

/-! ## Loss of main supply (R33, R159, R161, R185, R186) -/

/-- The settings left by the first `n` things on their way are those of the last settings command among them (R161). -/
theorem settingsLeft_eq {f : LineItem → Option Settings} (hf : ∀ (i : LineItem) held, i.settingsOn held = (f i).getD held)
    (held : Settings) (n : Nat) (items : List LineItem) :
    settingsLeft held n items = ((items.take n).filterMap f).getLast?.getD held := by
  induction items generalizing held n with
  | nil => simp [settingsLeft]
  | cons i rest ih =>
    cases n with
    | zero => simp [settingsLeft]
    | succ n =>
      simp only [settingsLeft, Nat.add_one_ne_zero, if_false, Nat.add_sub_cancel, ih, hf, List.take_succ_cons,
        List.filterMap_cons]
      cases f i with
      | none => rfl
      | some new => simp [List.getLast?_cons]

/-- The part without main supply: RETAINING with its tables while the cell holds, else UNPOWERED with nothing (R185). -/
theorem State.retained_orUnpowered (s : State) (settings : LineNo → Settings) (cell : Bool) :
    (s.retained settings).orUnpowered cell = if cell then
      { s with
        hold := none, pointer := .port, lines := .of (fun n => .started (settings n)), port := .started, mask := .all
        supply := ⟨.retaining, s.supply.mark, false, false⟩ }
      else { State.reset with
        port := .started, supply := ⟨.unpowered, false, false, false⟩, freeIndex := s.freeIndex, pending := s.pending } := by
  cases cell <;> rfl

section
variable {s : State} {fall : SupplyFall}

theorem execMainSupplyGoodFall_powerless (h : s.supply.state = .unpowered ∨ s.supply.state = .retaining) :
    execMainSupplyGoodFall fall s = .next s := by
  rcases h with h | h <;> simp only [execMainSupplyGoodFall, h]

/-- After a fail warning what the engine holds and has sent is carried out (R33, R159, R186). -/
theorem execMainSupplyGoodFall_stopping (h : s.supply.state = .stopping) :
    execMainSupplyGoodFall fall s = .next ((State.retained { s with calendar := s.calendar.finish s.hold }
      (fun n => (s.lines.get n).settingsAfter (s.lines.get n).inFlight.length)).orUnpowered fall.cellHolds) := by
  simp only [execMainSupplyGoodFall, h]

/-- Without one, a request that the engine holds makes the mark invalid (R186). -/
theorem execMainSupplyGoodFall_holding (h : s.supply.state = .running ∨ s.supply.state = .starting)
    (holds : s.holdsAt fall = true) :
    execMainSupplyGoodFall fall s = .next ((State.retained { s with supply := { s.supply with mark := false } }
      (fun n => (s.lines.get n).settings)).orUnpowered fall.cellHolds) := by
  rcases h with h | h <;> simp only [execMainSupplyGoodFall, h, holds, if_true]

/-- With the engine idle the mark stands, and settings commands on their way arrive in numbers that are not said (R186). -/
theorem execMainSupplyGoodFall_idle (h : s.supply.state = .running ∨ s.supply.state = .starting)
    (idle : ¬s.holdsAt fall = true) :
    execMainSupplyGoodFall fall s = .next ((State.retained { s with freeIndex := s.freeIndex + 4 }
      (fun n => (s.lines.get n).settingsAfter (Config.landedCommands (s.freeIndex + lineIndex n)))).orUnpowered
        fall.cellHolds) := by
  rcases h with h | h <;> simp only [execMainSupplyGoodFall, h, idle, if_false, Bool.false_eq_true]

end

/-- Settles O49: the stop at a fail warning, and the fall of main supply in each supply state. -/
theorem supplyLossStopsAndRetains : Obligations.SupplyLossStopsAndRetains := by
  refine ⟨fun s => ⟨fun live => ?_, fun other other' => ?_⟩, fun s cell taken => ?_⟩
  · rcases live with h | h <;> simp only [exec, execFailWarningRise, h] <;> rfl
  · cases h : s.supply.state with
    | running => exact absurd h other
    | starting => exact absurd h other'
    | unpowered | retaining | stopping => simp only [exec, execFailWarningRise, h]
  intro unasserted holds stands sent
  have settings (n : LineNo) (k : Nat) : (s.lines.get n).settingsAfter k = sent n k :=
    settingsLeft_eq (fun i _ => by cases i <;> rfl) _ _ _
  have isHolding : s.holdsAt ⟨cell, taken⟩ = true ↔ holds := State.holdsAt_iff
  refine ⟨fun h => ?_, fun live h => ?_, fun live h => ⟨fun n => Config.landedCommands (s.freeIndex + lineIndex n), ?_⟩,
    fun h => execMainSupplyGoodFall_powerless h⟩
  · refine (execMainSupplyGoodFall_stopping h).trans ?_
    rw [State.retained_orUnpowered]
    simp only [settings]
    cases s.hold with
    | none => rfl
    | some hold => cases hold <;> rfl
  · refine (execMainSupplyGoodFall_holding live (isHolding.2 h)).trans ?_
    rw [State.retained_orUnpowered]
  · refine (execMainSupplyGoodFall_idle live (mt isHolding.1 h)).trans ?_
    rw [State.retained_orUnpowered]
    simp only [settings]

end Sys2Proof.Machine

/-! # Bringing a record current -/

namespace Sys2Proof.Machine

/-! ## Settling leaves the other kits in the expiry index (R35, R76) -/

/-- What a settlement leaves of the expiry index: it stands, or a record that becomes OWNED leaves it (R10, R76). -/
theorem Work.timedSettle_expiry (w : Work) (en : Entry) :
    (w.timedSettle en).engine.expiry = w.engine.expiry ∨
      (w.timedSettle en).engine.expiry = dueRemove w.record.kit w.engine.expiry := by
  cases policy : w.engine.policyOf en.agent with
  | confirm =>
    obtain ⟨owned, completes, credits⟩ := Work.timedSettle_confirm (w := w) policy
    by_cases ho : w.record.state = .owned
    · rw [owned ho]
      exact .inl (w.takeEntry_expiry en _)
    by_cases hp : 0 < w.plan.price ∧ w.plan.price ≤ w.record.confirmed + en.amount
    · rw [completes ho hp]
      exact .inr rfl
    · rw [credits ho hp]
      exact .inl (w.takeEntry_expiry en _)
  | reverse =>
    obtain ⟨owned, reverses⟩ := Work.timedSettle_reverse (w := w) policy
    by_cases ho : w.record.state = .owned
    · rw [owned ho]
      exact .inl (w.takeEntry_expiry en _)
    · rw [reverses ho]
      exact .inl (w.takeEntry_expiry en _)

/-- Settling touches no other kit's entry of the expiry index. -/
theorem Work.dueRemove_settleDue (w : Work) (t : Nat) :
    dueRemove w.record.kit (w.settleDue t).engine.expiry = dueRemove w.record.kit w.engine.expiry := by
  unfold Work.settleDue
  generalize dueEntries t w.record.pending = entries
  induction entries generalizing w with
  | nil => rfl
  | cons en rest ih =>
    have later := ih (w.timedSettle en)
    rw [(w.same_timedSettle en).kit] at later
    refine later.trans ?_
    rcases w.timedSettle_expiry en with same | left
    · rw [same]
    · rw [left, dueRemove_dueRemove]

/-- Re-keying looks at the entries of the other kits only (R105). -/
theorem rekeyed_congr {index index' : List DueItem} {kit : Nat} (h : dueRemove kit index = dueRemove kit index')
    (slot : Nat) (due : Option (DueKind × Nat)) : rekeyed index kit slot due = rekeyed index' kit slot due := by
  cases due <;> simp only [rekeyed, h]

/-! ## The whole of bringing current (R35 to R37) -/

/-- The record that recomputation and the notices of R36 make of a settled one, against the state `before`. -/
def Record.noticed (r : Record) (p : Plan) (before : RecordState) (t : Nat) : Record :=
  let state := r.recomputed p t
  let remind := state = .active ∧ 0 < p.lead ∧ r.paid.getD 0 - t ≤ p.lead ∧ r.reminded = false
  { r with
    state := state, reminded := r.reminded || decide remind
    notices := { r.notices with
      lapsed := r.notices.lapsed || decide (before = .active ∧ (state = .lapsed ∨ state = .defaulted))
      defaulted := r.notices.defaulted || decide ((before = .active ∨ before = .lapsed) ∧ state = .defaulted)
      remind := r.notices.remind || decide remind } }

theorem Work.current_record (w : Work) (t : Nat) :
    let r := (w.settleDue t).record.noticed w.plan w.record.state t
    (w.current t).record = { r with due := r.dueFor w.plan } := by
  unfold Work.current
  rw [Work.creditNotices_eq, ← (w.same_settleDue t).plan]
  rfl

/-- A record whose set of notices was empty has one now when a notice of R36 was raised. -/
theorem Record.noticed_clear {r : Record} (h : r.notices = .clear) (p : Plan) (before : RecordState) (t : Nat) :
    (r.noticed p before t).notices ≠ .clear ↔
      (before = .active ∧ (r.recomputed p t = .lapsed ∨ r.recomputed p t = .defaulted)) ∨
      ((before = .active ∨ before = .lapsed) ∧ r.recomputed p t = .defaulted) ∨
      (r.recomputed p t = .active ∧ 0 < p.lead ∧ r.paid.getD 0 - t ≤ p.lead ∧ r.reminded = false) := by
  simp only [Record.noticed, h, NoticeFlags.clear, Bool.false_or, ne_eq, NoticeFlags.mk.injEq, decide_eq_false_iff_not,
    and_true]
  tauto

theorem Work.current_engine (w : Work) (t : Nat) :
    let settled := w.settleDue t
    let r := settled.record.noticed w.plan w.record.state t
    (w.current t).engine = { settled.engine with
      expiry := rekeyed w.engine.expiry w.record.kit w.slot (r.dueFor w.plan)
      notices := if settled.record.notices = .clear ∧ r.notices ≠ .clear then settled.engine.notices ++ [w.record.kit]
        else settled.engine.notices } := by
  intro settled r
  have same := w.same_settleDue t
  have noticed : settled.record.notices = .clear ∧ r.notices ≠ .clear ↔ settled.record.notices = .clear ∧ _ :=
    and_congr_right fun h => Record.noticed_clear h w.plan w.record.state t
  rw [if_congr noticed rfl rfl, ← rekeyed_congr (w.dueRemove_settleDue t), ← same.kit, ← same.slot]
  unfold Work.current
  rw [Work.creditNotices_eq]
  simp only [r, ← same.plan]
  rfl

section
variable (w : Work) (t : Nat)

theorem Work.current_pending : (w.current t).record.pending = (w.settleDue t).record.pending := by
  rw [Work.current_record]
  rfl

theorem Work.current_poolFree : (w.current t).engine.poolFree = (w.settleDue t).engine.poolFree := by
  rw [Work.current_engine]

theorem Work.current_due : (w.current t).record.due = (w.current t).record.dueFor w.plan := by
  rw [Work.current_record]
  rfl

theorem Work.current_state : (w.current t).record.state = (w.current t).record.recomputed w.plan t := by
  rw [Work.current_record]
  exact (Record.recomputed_recomputed (w.settleDue t).record w.plan t).symm

/-- No reminder is left to be raised on a record that is current (R36). -/
theorem Work.current_reminded : (w.current t).record.remindDue w.plan t = false := by
  rw [Work.current_record, Record.remindDue_eq]
  simp only [Record.noticed, Bool.or_eq_false_iff, decide_eq_false_iff_not]
  tauto

/-- What stands in the expiry index of a record that is current (R105, R107). -/
theorem Work.mem_current_expiry (d : DueItem) : d ∈ (w.current t).engine.expiry ↔
    (d ∈ w.engine.expiry ∧ d.kit ≠ w.record.kit) ∨ (w.current t).record.dueItem w.slot = some d := by
  rw [Work.current_engine, mem_rekeyed, Record.dueItem, (w.same_current t).kit, Work.current_record]

end

/-- The instant keyed for a record that agrees with `t` and has no reminder due is later than `t` (R104). -/
theorem Record.lt_of_dueFor {r : Record} {p : Plan} {t instant : Nat} {kind : DueKind} (state : r.state = r.recomputed p t)
    (reminded : r.remindDue p t = false) (h : r.dueFor p = some (kind, instant)) : t < instant := by
  unfold Record.dueFor at h
  split at h
  next paid active isPaid =>
    rw [Record.recomputed_eq (by simp [active]) (by simp [active]), active, isPaid] at state
    have early : t < paid := by
      by_contra late
      simp only [creditState, late, if_false] at state
      split at state <;> cases state
    split at h
    next lead =>
      cases h
      simp only [Bool.and_eq_true, decide_eq_true_eq, Bool.not_eq_true'] at lead
      simp [Record.remindDue, active, isPaid, lead] at reminded
      omega
    next => cases h; exact early
  next paid lapsed isPaid =>
    cases h
    rw [Record.recomputed_eq (by simp [lapsed]) (by simp [lapsed]), lapsed, isPaid] at state
    simp only [creditState] at state
    split at state
    · cases state
    split at state
    · assumption
    · cases state
  next => cases h

/-- A record that agrees with `t` in every part has no notice of R36 to raise. -/
theorem Record.noticed_self {r : Record} {p : Plan} {t : Nat} (state : r.state = r.recomputed p t)
    (reminded : r.remindDue p t = false) : r.noticed p r.state t = r := by
  rw [Record.remindDue_eq, decide_eq_false_iff_not] at reminded
  have lapsed : ¬(r.state = .active ∧ (r.state = .lapsed ∨ r.state = .defaulted)) := by
    rintro ⟨h, h' | h'⟩ <;> cases h.symm.trans h'
  have defaulted : ¬((r.state = .active ∨ r.state = .lapsed) ∧ r.state = .defaulted) := by
    rintro ⟨h | h, h'⟩ <;> cases h.symm.trans h'
  simp only [Record.noticed, ← state, reminded, lapsed, defaulted, decide_false, Bool.or_false]

/-- With no entry due, bringing current recomputes, raises the notices of R36 and keys anew (R35 to R37). -/
theorem Work.current_of_none_due {w : Work} {t : Nat} (h : ∀ en ∈ w.record.pending, t < en.deadline) :
    let r := w.record.noticed w.plan w.record.state t
    (w.current t).record = { r with due := r.dueFor w.plan } ∧
    (w.current t).engine = { w.engine with
      expiry := rekeyed w.engine.expiry w.record.kit w.slot (r.dueFor w.plan)
      notices := if w.record.notices = .clear ∧ r.notices ≠ .clear then w.engine.notices ++ [w.record.kit]
        else w.engine.notices } := by
  have record := w.current_record t
  have engine := w.current_engine t
  rw [Work.settleDue_of_none h] at record engine
  exact ⟨record, engine⟩

theorem Work.eq_of_parts {w w' : Work} (engine : w'.engine = w.engine) (slot : w'.slot = w.slot)
    (record : w'.record = w.record) (plan : w'.plan = w.plan) : w' = w := by
  obtain ⟨_, _, _, _⟩ := w
  obtain ⟨_, _, _, _⟩ := w'
  exact Work.mk.injEq .. ▸ ⟨engine, slot, record, plan⟩

/-- A record that is current stays as it is when it is brought current again at the same instant (R37). -/
theorem Work.current_current (w : Work) (t : Nat) : (w.current t).current t = w.current t := by
  have same := w.same_current t
  have again := (w.current t).same_current t
  have settled : ∀ en ∈ (w.current t).record.pending, t < en.deadline := by
    rw [Work.current_pending]
    exact w.settleDue_settled t
  obtain ⟨record, engine⟩ := Work.current_of_none_due settled
  have noticed : (w.current t).record.noticed (w.current t).plan (w.current t).record.state t = (w.current t).record :=
    Record.noticed_self (same.plan ▸ w.current_state t) (same.plan ▸ w.current_reminded t)
  have index : rekeyed (w.current t).engine.expiry (w.current t).record.kit (w.current t).slot
      ((w.current t).record.dueFor (w.current t).plan) = (w.current t).engine.expiry := by
    rw [same.kit, same.slot, same.plan, Work.current_engine, rekeyed_rekeyed, Work.current_record]
    rfl
  rw [noticed, same.plan, ← Work.current_due] at record
  rw [noticed, index, if_neg fun h => h.2 h.1] at engine
  exact Work.eq_of_parts engine again.slot record again.plan

/-! ## One entry at its deadline (R76 to R78, R81, R93) -/

theorem Engine.policyOf_eq {e : Engine} {agent : Nat} {a : Agent} (h : e.agents.get agent = some a) :
    e.policyOf agent = a.policy := by
  simp only [Engine.policyOf, h]

/-- The tables after an entry has been taken, its agent's slot being there (R76, R77). -/
theorem Engine.changeAgent_found {e : Engine} {n : Nat} {a : Agent} (h : e.agents.get n = some a) (f : Agent → Agent) :
    e.changeAgent n f = { e with agents := e.agents.put n (f a) } := by
  simp only [Engine.changeAgent, h]

/-- Settles O46: what bringing current leaves in every case, with no entry due, and with a first entry that is due. -/
theorem bringingCurrentAgrees : Obligations.BringingCurrentAgrees := by
  refine ⟨fun w t => ?_, fun w t later => ?_, fun w t en front back a pending nodup deadline before behind found => ?_⟩
  · intro w'
    have same := w.same_current t
    obtain ⟨leave, pool, raised⟩ := w.settleDue_spec t
    refine ⟨same, fun nodup => ⟨(w.current_pending t).trans (leave nodup), (w.current_poolFree t).trans pool⟩,
      fun due => ?_, fun hs ho => ?_, w.current_due t, w.mem_current_expiry t, fun kind instant h => ?_,
      w.current_current t⟩
    · rw [Work.current_record]
      exact raised due
    · rw [Work.current_state, Record.recomputed_eq hs ho]
    · rw [Work.current_due] at h
      exact Record.lt_of_dueFor (w.current_state t) (w.current_reminded t) h
  · obtain ⟨record, engine⟩ := Work.current_of_none_due later
    dsimp only
    rw [engine, record]
    exact ⟨rfl, rfl⟩
  · intro owned settles
    obtain ⟨left, continues⟩ := Work.current_timedSettle pending nodup deadline before behind
    have policy := Engine.policyOf_eq found
    have removed : removeEntry en.reference w.record.pending = front ++ back :=
      (w.drops_timedSettle en).pending.symm.trans left
    refine ⟨fun confirm => ?_, fun reverse => ?_⟩
    · obtain ⟨keeps, completes, credits⟩ := Work.timedSettle_confirm (w := w) (policy.trans confirm)
      rw [Engine.changeAgent_found (e := (w.dropEntry en).engine) found, removed] at keeps completes credits
      refine ⟨fun ho => ?_, fun ho reaches => ?_, fun ho short => ?_⟩
      · exact continues.trans (congrArg (Work.current · t) (keeps ho))
      · exact continues.trans (congrArg (Work.current · t) (completes ho reaches))
      · exact continues.trans (congrArg (Work.current · t) (credits ho short))
    · obtain ⟨keeps, takesBack⟩ := Work.timedSettle_reverse (w := w) (policy.trans reverse)
      rw [Engine.changeAgent_found (e := (w.dropEntry en).engine) found, removed] at keeps takesBack
      refine ⟨fun ho => ?_, fun ho => ?_⟩
      · exact continues.trans (congrArg (Work.current · t) (keeps ho))
      · exact continues.trans (congrArg (Work.current · t) (takesBack ho))

end Sys2Proof.Machine

/-! # The requests on plans -/

namespace Sys2Proof.Machine

/-! ## The plan requests on a granted frame (R41) -/

section
variable {s : State} {e : Engine} {plan changes : Nat} {p : PlanNums} {result : Result} {fields : List Field}

theorem exec_definePlan (h : s.grantedRequest = some (.definePlan plan p))
    (work : s.engine.definePlan plan p = (e, result, fields)) :
    exec .definePlan s = .next (s.responded e ⟨0x10, result, byteField plan :: fields⟩) := by
  simp only [exec, execDefinePlan, h, work]
  exact State.answer_granted h _ _

theorem exec_amendPlan (h : s.grantedRequest = some (.amendPlan plan changes p))
    (work : s.engine.amendPlan plan changes p = (e, result, fields)) :
    exec .amendPlan s = .next (s.responded e ⟨0x11, result, byteField plan :: fields⟩) := by
  simp only [exec, execAmendPlan, h, work]
  exact State.answer_granted h _ _

theorem exec_readPlan (h : s.grantedRequest = some (.readPlan plan))
    (work : s.engine.readPlan plan = (e, result, fields)) :
    exec .readPlan s = .next (s.responded e ⟨0x12, result, byteField plan :: fields⟩) := by
  simp only [exec, execReadPlan, h, work]
  exact State.answer_granted h _ _

theorem exec_releasePlan (h : s.grantedRequest = some (.releasePlan plan))
    (work : s.engine.releasePlan plan = (e, result, fields)) :
    exec .releasePlan s = .next (s.responded e ⟨0x13, result, byteField plan :: fields⟩) := by
  simp only [exec, execReleasePlan, h, work]
  exact State.answer_granted h _ _

theorem exec_enrolKit {kit key base : Nat} (h : s.grantedRequest = some (.enrolKit kit plan key base))
    (work : s.engine.enrolKit kit plan (BitVec.ofNat 32 key) base = (e, result, fields)) :
    exec .enrolKit s = .next (s.responded e ⟨0x01, result, wordField kit :: fields⟩) := by
  simp only [exec, execEnrolKit, h, work]
  exact State.answer_granted h _ _

end

/-! ## DEFINE PLAN (R42, R43) -/

/-- Check 1 of R42: the number and every field in range, and the renew step within the lease. -/
def PlanNums.definable (p : PlanNums) (plan : Nat) : Bool := planInRange plan && p.inRange.all id && p.renew ≤ p.lease

theorem PlanNums.definable_iff {p : PlanNums} {plan : Nat} :
    p.definable plan = true ↔ plan ≤ 31 ∧ (1 ≤ p.rate ∧ p.rate ≤ 10000000) ∧ p.price ≤ 1000000000000 ∧
      (1 ≤ p.minimum ∧ p.minimum ≤ 2000000000) ∧ (1 ≤ p.capDays ∧ p.capDays ≤ 366) ∧
      (capModeOf p.capMode).isSome = true ∧ (roundingOf p.rounding).isSome = true ∧
      (60 ≤ p.lease ∧ p.lease ≤ 10080) ∧ (15 ≤ p.renew ∧ p.renew ≤ 1440) ∧ p.lead ≤ 10080 ∧
      (1 ≤ p.window ∧ p.window ≤ 180) ∧ (flagOf p.clawBack).isSome = true ∧ p.renew ≤ p.lease := by
  simp only [PlanNums.definable, PlanNums.inRange, List.all_cons, List.all_nil, id, Bool.and_eq_true, decide_eq_true_eq,
    planInRange_iff, within_iff, Nat.zero_le, true_and, and_true, and_assoc]

section
variable {e : Engine} {plan : Nat} {p : PlanNums}

theorem Engine.definePlan_badField (h : ¬p.definable plan = true) : e.definePlan plan p = (e, .badField, []) :=
  if_pos (by rwa [Bool.not_eq_true', ← Bool.not_eq_true])

/-- DEFINE PLAN with its number and its fields in range (R42, R43). -/
theorem Engine.definePlan_definable (h : p.definable plan = true) :
    e.definePlan plan p =
      if (e.plans.get plan).isSome then (e, .wrongState, [])
      else ({ e with plans := e.plans.put plan (p.plan 0) }, .done, []) :=
  if_neg (by rwa [Bool.not_eq_true', Bool.not_eq_false])

end

/-- The plan that numbers spell whose codes are in the type table (R39, R192). -/
theorem PlanNums.plan_eq {p : PlanNums} {cap : CapMode} {rounding : Rounding} {clawBack : Bool}
    (hc : capModeOf p.capMode = some cap) (hr : roundingOf p.rounding = some rounding)
    (hf : flagOf p.clawBack = some clawBack) (count : Nat) :
    p.plan count =
      { rate := p.rate, price := p.price, minimum := p.minimum, capDays := p.capDays, capMode := cap,
        rounding := rounding, lease := p.lease, renew := p.renew, lead := p.lead, window := p.window,
        clawBack := clawBack, refCount := count } := by
  simp only [PlanNums.plan, hc, hr, hf, Option.getD_some]

/-- Settles O14: the two checks of R42 in order, and the plan written. -/
theorem definePlanWritesPlan : Obligations.DefinePlanWritesPlan := by
  intro s plan p h good
  have range : p.definable plan = true ↔ good := PlanNums.definable_iff
  refine ⟨fun bad => ?_, fun ok defined => ?_, fun cap rounding clawBack ok free hc hr hf => ?_⟩
  · exact exec_definePlan h (Engine.definePlan_badField (mt range.1 bad))
  · exact exec_definePlan h ((Engine.definePlan_definable (range.2 ok)).trans (if_pos defined))
  · have unheld : ¬(s.engine.plans.get plan).isSome = true := by simp [free]
    rw [← PlanNums.plan_eq hc hr hf 0]
    exact exec_definePlan h ((Engine.definePlan_definable (range.2 ok)).trans (if_neg unheld))

/-! ## AMEND PLAN (R44, R45) -/

/-- Check 1 of R44, so far as it does not read the plan: the number, the change set and every field carried in range. -/
def PlanNums.amendable (p : PlanNums) (plan changes : Nat) : Bool :=
  planInRange plan && changes < 2 ^ 11 && changesInRange changes p.inRange

theorem PlanNums.amendable_iff {p : PlanNums} {plan changes : Nat} :
    p.amendable plan changes = true ↔ plan ≤ 31 ∧ changes < 2048 ∧
      (changes.testBit 0 = true → 1 ≤ p.rate ∧ p.rate ≤ 10000000) ∧
      (changes.testBit 1 = true → p.price ≤ 1000000000000) ∧
      (changes.testBit 2 = true → 1 ≤ p.minimum ∧ p.minimum ≤ 2000000000) ∧
      (changes.testBit 3 = true → 1 ≤ p.capDays ∧ p.capDays ≤ 366) ∧
      (changes.testBit 4 = true → (capModeOf p.capMode).isSome = true) ∧
      (changes.testBit 5 = true → (roundingOf p.rounding).isSome = true) ∧
      (changes.testBit 6 = true → 60 ≤ p.lease ∧ p.lease ≤ 10080) ∧
      (changes.testBit 7 = true → 15 ≤ p.renew ∧ p.renew ≤ 1440) ∧
      (changes.testBit 8 = true → p.lead ≤ 10080) ∧
      (changes.testBit 9 = true → 1 ≤ p.window ∧ p.window ≤ 180) ∧
      (changes.testBit 10 = true → (flagOf p.clawBack).isSome = true) := by
  have carried (i : Nat) (good : Bool) : (!changes.testBit i || good) = true ↔ (changes.testBit i = true → good = true) := by
    cases changes.testBit i <;> simp
  simp only [PlanNums.amendable, PlanNums.inRange, changesInRange, List.zipIdx_cons, List.zipIdx_nil, List.all_cons,
    List.all_nil, carried, Bool.and_eq_true, decide_eq_true_eq, planInRange_iff, within_iff, Nat.zero_le, true_and, and_true,
    and_assoc, Nat.reducePow, Nat.reduceAdd]

section
variable {e : Engine} {plan changes : Nat} {p : PlanNums} {held : Plan}

theorem Engine.amendPlan_badField (h : ¬p.amendable plan changes = true) :
    e.amendPlan plan changes p = (e, .badField, []) :=
  if_pos (by rwa [Bool.not_eq_true', ← Bool.not_eq_true])

theorem Engine.amendPlan_unknownPlan (h : p.amendable plan changes = true) (free : e.plans.get plan = none) :
    e.amendPlan plan changes p = (e, .unknownPlan, []) := by
  refine (if_neg (by rwa [Bool.not_eq_true', Bool.not_eq_false])).trans ?_
  simp only [free]

/-- The checks of R44 that read the plan held, and the plan written. -/
theorem Engine.amendPlan_defined (h : p.amendable plan changes = true) (defined : e.plans.get plan = some held) :
    e.amendPlan plan changes p =
      if (held.amended changes p).lease < (held.amended changes p).renew then (e, .badField, [])
      else if 0 < held.refCount && held.restrictedChange (held.amended changes p) then (e, .planInUse, [])
      else ({ e with plans := e.plans.put plan (held.amended changes p) }, .done, (held.amended changes p).fields) := by
  refine (if_neg (by rwa [Bool.not_eq_true', Bool.not_eq_false])).trans ?_
  simp only [defined]

end

theorem Plan.restrictedChange_iff {held new : Plan} :
    held.restrictedChange new = true ↔ new.price ≠ held.price ∨ new.rounding ≠ held.rounding ∨
      new.capDays ≠ held.capDays ∨ new.capMode ≠ held.capMode ∨ new.window ≠ held.window := by
  simp only [Plan.restrictedChange, Bool.or_eq_true, bne_iff_ne, or_assoc, ne_comm]

/-- A coded field of an amended plan: the value of the code carried, or the one held (R44). -/
theorem coded_of_some {α : Type} {carried : Bool} {code : Option α} {new held other : α}
    (h : some new = if carried then code else some held) : (if carried then code.getD other else held) = new := by
  cases carried
  · exact (Option.some.inj h).symm
  · exact congrArg (Option.getD · other) h.symm

/-- Settles O15: the checks of R44 in order, and the plan that R45 writes and reports. -/
theorem amendPlanWritesFields : Obligations.AmendPlanWritesFields := by
  intro s plan changes p h good refused
  have range : p.amendable plan changes = true ↔ good := PlanNums.amendable_iff
  refine ⟨fun bad => ?_, fun ok free => ?_, fun held new ok defined rate price minimum capDays capMode rounding lease renew
    lead window clawBack count => ?_⟩
  · exact exec_amendPlan h (Engine.amendPlan_badField (mt range.1 bad))
  · exact exec_amendPlan h (Engine.amendPlan_unknownPlan (range.2 ok) free)
  · have applied : held.amended changes p = new := by
      cases new
      exact Plan.mk.injEq .. ▸ ⟨rate.symm, price.symm, minimum.symm, capDays.symm, coded_of_some capMode,
        coded_of_some rounding, lease.symm, renew.symm, lead.symm, window.symm, coded_of_some clawBack, count.symm⟩
    have work := Engine.amendPlan_defined (range.2 ok) defined
    rw [applied] at work
    intro restricted
    have change : held.restrictedChange new = true ↔ restricted := Plan.restrictedChange_iff
    refine ⟨fun passes => ?_, fun within used changed => ?_, fun within allowed => ?_⟩
    · exact exec_amendPlan h (work.trans (if_pos passes))
    all_goals rw [if_neg (Nat.not_lt.2 within)] at work
    · exact exec_amendPlan h (work.trans (if_pos (by simp [used, change.2 changed])))
    · have unrefused : ¬(0 < held.refCount && held.restrictedChange new) = true := by
        rw [Bool.and_eq_true, decide_eq_true_eq, change]
        exact fun ⟨used, changed⟩ => allowed.elim used.ne' (absurd changed)
      exact exec_amendPlan h (work.trans (if_neg unrefused))

/-! ## READ PLAN and RELEASE PLAN (R46, R47) -/

section
variable {e : Engine} {plan : Nat} {p : Plan}

theorem Engine.readPlan_badField (h : 31 < plan) : e.readPlan plan = (e, .badField, []) :=
  if_pos (by simpa [← Bool.not_eq_true, planInRange_iff] using h)

theorem Engine.readPlan_unknownPlan (h : plan ≤ 31) (free : e.plans.get plan = none) :
    e.readPlan plan = (e, .unknownPlan, []) := by
  refine (if_neg (by simpa [planInRange_iff] using h)).trans ?_
  simp only [free]

theorem Engine.readPlan_defined (h : plan ≤ 31) (defined : e.plans.get plan = some p) :
    e.readPlan plan = (e, .done, p.fields ++ [pairField p.refCount]) := by
  refine (if_neg (by simpa [planInRange_iff] using h)).trans ?_
  simp only [defined]

theorem Engine.releasePlan_badField (h : 31 < plan) : e.releasePlan plan = (e, .badField, []) :=
  if_pos (by simpa [← Bool.not_eq_true, planInRange_iff] using h)

theorem Engine.releasePlan_unknownPlan (h : plan ≤ 31) (free : e.plans.get plan = none) :
    e.releasePlan plan = (e, .unknownPlan, []) := by
  refine (if_neg (by simpa [planInRange_iff] using h)).trans ?_
  simp only [free]

theorem Engine.releasePlan_defined (h : plan ≤ 31) (defined : e.plans.get plan = some p) :
    e.releasePlan plan =
      if 0 < p.refCount then (e, .planInUse, []) else ({ e with plans := e.plans.erase plan }, .done, []) := by
  refine (if_neg (by simpa [planInRange_iff] using h)).trans ?_
  simp only [defined]

end

/-- Settles O16: the two refusals of R46, and the plan reported as it is held. -/
theorem readPlanReports : Obligations.ReadPlanReports := fun _ _ h =>
  ⟨fun above => exec_readPlan h (Engine.readPlan_badField above),
    fun range free => exec_readPlan h (Engine.readPlan_unknownPlan range free),
    fun _ range defined => exec_readPlan h (Engine.readPlan_defined range defined)⟩

/-- Settles O17: the refusals of R47 and the slot made FREE, and the check for a FREE plan in R13 and in R19. -/
theorem releasePlanFreesSlot : Obligations.ReleasePlanFreesSlot := by
  refine ⟨fun s plan h => ⟨fun above => ?_, fun range free => ?_, fun p range defined used => ?_,
      fun p range defined unused => ⟨?_, ?_⟩⟩,
    fun s kit plan key base h low high range number free => ?_, fun s kit plan w h low high range found free => ?_⟩
  · exact exec_releasePlan h (Engine.releasePlan_badField above)
  · exact exec_releasePlan h (Engine.releasePlan_unknownPlan range free)
  · exact exec_releasePlan h ((Engine.releasePlan_defined range defined).trans (if_pos used))
  · exact exec_releasePlan h ((Engine.releasePlan_defined range defined).trans (if_neg (Nat.not_lt.2 unused.le)))
  · rw [Table.get_erase, if_pos rfl]
  · exact exec_enrolKit h ((Engine.enrolKit_inRange ⟨low, high, range, number⟩).trans (if_pos (by simp [free])))
  · rw [exec_movePlan_undefined h free, Engine.onKit_name low high (planInRange_iff.2 range) found]
    exact State.answer_granted h _ _

end Sys2Proof.Machine

/-! # The credit arithmetic unit -/

namespace Sys2Proof.Machine

/-! ## Converted minutes, and the three outcomes of the cap (R51 to R54) -/

/-- R52's table words a tie as one condition. -/
theorem roundMinutes_nearestEven (rate q r : Nat) :
    roundMinutes .nearestEven rate q r = if 2 * r < rate ∨ (2 * r = rate ∧ q % 2 = 0) then q else q + 1 := by
  simp only [roundMinutes]
  split_ifs <;> omega

/-- Only CARRY keeps a remainder (R52). -/
theorem keptRemainder_eq (mode : Rounding) (r : Nat) : keptRemainder mode r = if mode = .carry then r else 0 :=
  residueEntering_eq mode r

section
variable {p : Plan} {amount residueIn base t : Nat}

/-- The converted minutes m of an amount and the residue that enters its numerator (R51, R52). -/
def Plan.convertedMinutes (p : Plan) (amount residueIn : Nat) : Nat :=
  roundMinutes p.rounding p.rate ((amount * 1440 + residueIn) / p.rate) ((amount * 1440 + residueIn) % p.rate)

/-- A conversion that stays at or before the limit is accepted as it stands (R53). -/
theorem convert_of_le_capLimit (h : base + p.convertedMinutes amount residueIn ≤ p.capLimit t) :
    convert p amount residueIn base t = some
      { minutes := p.convertedMinutes amount residueIn, accepted := amount, surplus := 0,
        remainder := keptRemainder p.rounding ((amount * 1440 + residueIn) % p.rate) } :=
  if_pos h

/-- A conversion that would pass the limit is refused, or clamped where minutes are left up to the limit (R53, R54). -/
theorem convert_of_capLimit_lt (h : p.capLimit t < base + p.convertedMinutes amount residueIn) :
    convert p amount residueIn base t =
      if p.capMode = .refuse ∨ p.capLimit t ≤ base then none
      else some (clampConversion p amount residueIn (p.capLimit t - base)) := by
  refine (if_neg (Nat.not_le.2 h)).trans ?_
  cases p.capMode <;> simp

/-- CAP EXCEEDED (R53, R54). -/
theorem convert_eq_none_iff :
    convert p amount residueIn base t = none ↔
      p.capLimit t < base + p.convertedMinutes amount residueIn ∧ (p.capMode = .refuse ∨ p.capLimit t ≤ base) := by
  by_cases h : base + p.convertedMinutes amount residueIn ≤ p.capLimit t
  · simp [convert_of_le_capLimit h, h]
  · have beyond := Nat.not_le.1 h
    rw [convert_of_capLimit_lt beyond]
    split <;> next barred => simp [beyond, barred]

/-- What an accepted conversion is: the whole amount below the limit, or the clamp of R54 at it. -/
theorem convert_eq_some {c : Conversion} (h : convert p amount residueIn base t = some c) :
    (base + p.convertedMinutes amount residueIn ≤ p.capLimit t ∧ c =
      { minutes := p.convertedMinutes amount residueIn, accepted := amount, surplus := 0,
        remainder := keptRemainder p.rounding ((amount * 1440 + residueIn) % p.rate) }) ∨
    (p.capLimit t < base + p.convertedMinutes amount residueIn ∧ base < p.capLimit t ∧
      c = clampConversion p amount residueIn (p.capLimit t - base)) := by
  obtain below | beyond := le_or_gt (base + p.convertedMinutes amount residueIn) (p.capLimit t)
  · rw [convert_of_le_capLimit below] at h
    exact .inl ⟨below, (Option.some.inj h).symm⟩
  · rw [convert_of_capLimit_lt beyond] at h
    split at h
    · cases h
    next room =>
      exact .inr ⟨beyond, Nat.lt_of_not_le fun le => room (.inr le), (Option.some.inj h).symm⟩

/-- The accepted amount of the clamp pays, with the residue, for its minutes (R54). -/
theorem clampConversion_pays (p : Plan) (amount residueIn m : Nat) :
    m * p.rate ≤ (clampConversion p amount residueIn m).accepted * 1440 + residueIn := by
  simp only [clampConversion, Config.dayMinutes]
  omega

/-- No smaller amount pays for the minutes of the clamp (R54). -/
theorem clampConversion_least {m a : Nat} (h : a < (clampConversion p amount residueIn m).accepted) :
    a * 1440 + residueIn < m * p.rate := by
  simp only [clampConversion, Config.dayMinutes] at h
  omega

end

/-- Settles O18: an accepted conversion stays below the limit and is the division of R51, or is the clamp of R54. -/
theorem conversionIsExact : Obligations.ConversionIsExact := by
  intro p amount residueIn base t _ numerator q r m limit
  have rounded : p.convertedMinutes amount residueIn = m := by
    change roundMinutes p.rounding p.rate q r = m
    simp only [m]
    cases p.rounding
    · rfl
    · exact roundMinutes_nearestEven p.rate q r
    · rfl
  rw [← rounded]
  refine ⟨convert_eq_none_iff, fun c h => ?_⟩
  have whole := convert_accepted_le h
  obtain ⟨below, rfl⟩ | ⟨beyond, room, rfl⟩ := convert_eq_some h
  · refine ⟨rfl, below, fun carry => ?_, fun other => ?_, fun _ => ⟨rfl, rfl⟩, fun past => absurd below (Nat.not_le.2 past)⟩
    · simp only [Plan.convertedMinutes, keptRemainder_eq, carry, if_true]
      exact Nat.div_add_mod' numerator p.rate
    · exact (keptRemainder_eq ..).trans (if_neg other)
  · have pays := clampConversion_pays p amount residueIn (limit - base)
    refine ⟨Nat.add_sub_cancel' whole, (Nat.add_sub_cancel' room.le).le, fun carry => ?_, fun other => ?_,
      fun stays => absurd beyond (Nat.not_lt.2 stays), fun _ => ⟨rfl, pays, fun a => clampConversion_least⟩⟩
    · refine Eq.trans ?_ (Nat.add_sub_cancel' pays)
      exact congrArg _ ((keptRemainder_eq ..).trans (if_pos carry))
    · exact (keptRemainder_eq ..).trans (if_neg other)

end Sys2Proof.Machine

/-! # TOP-UP refused -/

namespace Sys2Proof.Machine

/-! ## TOP-UP refused (R34, R71, R72, R74) -/

section
variable {e : Engine} {m : TopUpMsg} {a : Agent} {calendar : CalendarState} {t : Nat}

/-- No agent is named by a number out of range, by a CLOSED slot, or by a check that does not match (R71). -/
theorem Engine.senderOf_eq_none {number : Nat} {covered : List Byte} {check : Word32}
    (h : ∀ a, agentInRange number = true → e.agents.get number = some a → keyedCheck a.key covered ≠ check) :
    e.senderOf number covered check = none := by
  refine Option.eq_none_iff_forall_ne_some.2 fun a g => ?_
  obtain ⟨range, agent, matched⟩ := Engine.senderOf_eq_some.1 g
  exact h a range agent matched

/-- TOP-UP that comes from no agent leaves the tables and its mark (R71). -/
theorem Engine.topUp_unknownSender (h : e.senderOf m.agent m.covered m.check = none) :
    e.topUp m calendar t = some (e, some (.mark (.agent m.agent))) := by
  unfold Engine.topUp
  split
  · rfl
  next present => exact absurd (h.symm.trans present) (by simp)

/-- The first three refusals of R72, with nothing brought current. -/
inductive TopUpMsg.RefusedEarly (m : TopUpMsg) (e : Engine) (a : Agent) : Result → Prop
  | agentBarred (barred : a.barred = true) : m.RefusedEarly e a .agentBarred
  | badField (open_ : a.barred = false) (fields : (kitInRange m.kit && m.reference != 0) = false) :
    m.RefusedEarly e a .badField
  | unknownKit (open_ : a.barred = false) (fields : (kitInRange m.kit && m.reference != 0) = true)
    (absent : e.directory.get m.kit = none) : m.RefusedEarly e a .unknownKit

theorem Engine.topUp_refusedEarly {result : Result} (sender : e.senderOf m.agent m.covered m.check = some a)
    (h : m.RefusedEarly e a result) : e.topUp m calendar t = some (e, (m.refused result).reply a.key) := by
  unfold Engine.topUp
  split
  next absent => exact absurd (sender.symm.trans absent) (by simp)
  next a' present =>
    obtain rfl := Option.some.inj (sender.symm.trans present)
    cases h with
    | agentBarred barred => rw [if_pos barred]
    | badField open_ fields => simp [open_, fields]
    | unknownKit open_ fields absent => simp [open_, fields, Engine.find, absent]

end

section
variable {w : Work} {m : TopUpMsg} {a : Agent} {t : Nat}

theorem Work.topUp_unset : w.topUp m a .unset t = w.topUpRefused m .timeUnset t := if_pos rfl

theorem Work.topUp_duplicate {held : Entry} (h : findEntry m.reference w.record.pending = some held) :
    w.topUp m a .known t = w.duplicate m held t := by
  simp only [Work.topUp, h, reduceCtorEq, if_false]

variable (fresh : findEntry m.reference w.record.pending = none)
include fresh

theorem Work.topUp_owned (ho : w.record.state = .owned) : w.topUp m a .known t = w.topUpRefused m .wrongState t := by
  simp only [Work.topUp, fresh, reduceCtorEq, if_false, ho, if_true]

variable (ho : w.record.state ≠ .owned)
include ho

theorem Work.topUp_belowMinimum (low : m.amount < w.plan.minimum) :
    w.topUp m a .known t = w.topUpRefused m .belowMinimum t := by
  simp only [Work.topUp, fresh, reduceCtorEq, if_false, ho, low, if_true]

variable (least : w.plan.minimum ≤ m.amount)
include least

theorem Work.topUp_pendingFull (full : 4 ≤ w.record.pending.length) :
    w.topUp m a .known t = w.topUpRefused m .pendingFull t := by
  have full : Config.pendingPerRecord ≤ w.record.pending.length := full
  simp only [Work.topUp, fresh, reduceCtorEq, if_false, ho, Nat.not_lt.2 least, full, if_true]

variable (room : w.record.pending.length < 4)
include room

theorem Work.topUp_poolFull (pool : w.engine.poolFree = 0) :
    w.topUp m a .known t = w.topUpRefused m .poolFull t := by
  have room : ¬Config.pendingPerRecord ≤ w.record.pending.length := Nat.not_le.2 room
  simp only [Work.topUp, fresh, reduceCtorEq, if_false, ho, Nat.not_lt.2 least, room, pool, if_true]

variable (pool : 0 < w.engine.poolFree)
include pool

theorem Work.topUp_capExceeded (refused : convert w.plan m.amount 0 (w.record.base t) t = none) :
    w.topUp m a .known t = w.topUpRefused m .capExceeded t := by
  have room : ¬Config.pendingPerRecord ≤ w.record.pending.length := Nat.not_le.2 room
  simp only [Work.topUp, fresh, reduceCtorEq, if_false, ho, Nat.not_lt.2 least, room, pool.ne', refused]

theorem Work.topUp_floatExceeded {b : Agent} {c : Conversion}
    (converted : convert w.plan m.amount 0 (w.record.base t) t = some c)
    (agent : w.engine.agents.get m.agent = some b) (float : b.limit < b.outstanding + c.accepted) :
    w.topUp m a .known t = w.topUpRefused m .floatExceeded t := by
  have room : ¬Config.pendingPerRecord ≤ w.record.pending.length := Nat.not_le.2 room
  simp only [Work.topUp, fresh, reduceCtorEq, if_false, ho, Nat.not_lt.2 least, room, pool.ne', converted, agent,
    Option.getD_some, float, if_true]

end

theorem TopUpMsg.good_iff {m : TopUpMsg} :
    (kitInRange m.kit && m.reference != 0) = true ↔ (1 ≤ m.kit ∧ m.kit ≤ 4294967294) ∧ m.reference ≠ 0 := by
  rw [Bool.and_eq_true, kitInRange_iff, bne_iff_ne]

/-- Settles O43: the mark, the refusals of R72 before the record is current, and those on the current record. -/
theorem topUpRefuses : Obligations.TopUpRefuses := by
  intro s n m h t named
  have sentBy (a : Agent) : named = some a ↔ agentInRange m.agent = true ∧ s.engine.agents.get m.agent = some a := by
    simp only [named, agentInRange_iff]
    split <;> simp_all
  refine ⟨fun unknown => ?_, ?_⟩
  · have nobody : s.engine.senderOf m.agent m.covered m.check = none :=
      Engine.senderOf_eq_none fun a range agent => unknown a ((sentBy a).2 ⟨range, agent⟩)
    rw [exec_topUp h, Engine.topUp_unknownSender nobody]
    exact State.handle_reply s n _ _
  intro a ha check answered early good
  obtain ⟨range, agent⟩ := (sentBy a).1 ha
  have sender : s.engine.senderOf m.agent m.covered m.check = some a :=
    Engine.senderOf_eq_some.2 ⟨range, agent, check⟩
  have refuse {result : Result} (hr : m.RefusedEarly s.engine a result) : early result := by
    simp only [early, answered]
    rw [exec_topUp h, Engine.topUp_refusedEarly sender hr]
    exact State.handle_reply s n _ _
  refine ⟨fun barred => refuse (.agentBarred barred),
    fun open_ bad => refuse (.badField open_ (Bool.eq_false_iff.2 (mt TopUpMsg.good_iff.1 bad))),
    fun open_ fields absent => refuse (.unknownKit open_ (TopUpMsg.good_iff.2 fields) absent),
    fun open_ fields w found => ?_⟩
  have run {x : TopUpAnswer} (work : (w.current t).topUp m a s.calendar.state t = (w.current t, x)) :
      answered (w.current t).commit x := by
    simp only [answered]
    rw [exec_topUp h, Engine.topUp_found sender open_ (TopUpMsg.good_iff.2 fields) found, work]
    exact State.handle_reply s n _ _
  generalize w.current t = w' at run
  intro w r refused
  refine ⟨fun unset => run (by rw [unset]; exact Work.topUp_unset), fun known => ?_⟩
  rw [known] at run
  refine ⟨fun held found => ⟨fun same => run ?_, fun other => run ?_⟩, fun fresh => ?_⟩
  · exact (Work.topUp_duplicate found).trans (if_pos same)
  · exact (Work.topUp_duplicate found).trans (if_neg other)
  · refine ⟨fun ho => run (Work.topUp_owned fresh ho), fun ho =>
      ⟨fun low => run (Work.topUp_belowMinimum fresh ho low), fun least =>
      ⟨fun full => run (Work.topUp_pendingFull fresh ho least full), fun room =>
      ⟨fun empty => run (Work.topUp_poolFull fresh ho least room empty), fun pool => ⟨fun cap => ?_, ?_⟩⟩⟩⟩⟩
    · exact run (Work.topUp_capExceeded fresh ho least room pool cap)
    · intro c b converted agent' float
      exact run (Work.topUp_floatExceeded fresh ho least room pool converted agent' float)

end Sys2Proof.Machine

/-! # Pool, agents and settlement index against the pending entries -/

namespace Sys2Proof.Machine

/-! ## One entry of a table apart from the others -/

section
variable {α : Type}

theorem Table.erase_put (k : Nat) (v : α) (t : Table α) : (t.put k v).erase k = t.erase k := by
  induction t with
  | nil => simp [Table.put, Table.erase]
  | cons e rest ih =>
    obtain ⟨j, u⟩ := e
    simp only [Table.erase] at ih
    by_cases hjk : j = k
    · simp [Table.put, Table.erase, hjk]
    · by_cases hlt : k < j <;> simp [Table.put, Table.erase, hjk, hlt, ih]

theorem Table.erase_of_free {k : Nat} {t : Table α} (h : t.get k = none) : t.erase k = t := by
  refine List.filter_eq_self.2 fun e he => ?_
  have : e.1 ≠ k := by
    induction t with
    | nil => cases he
    | cons d rest ih =>
      obtain ⟨j, u⟩ := d
      by_cases hjk : j = k
      · simp [Table.get, hjk] at h
      · obtain rfl | he := List.mem_cons.1 he
        · exact hjk
        · exact ih (by simpa [Table.get, hjk] using h) he
  simpa using this

/-- A table in canonical form is one of its entries and the others. -/
theorem Table.perm_of_get {k : Nat} {v : α} {t : Table α} (hw : Table.wf t) (h : t.get k = some v) :
    t.Perm ((k, v) :: t.erase k) := by
  induction t with
  | nil => cases h
  | cons e rest ih =>
    obtain ⟨j, u⟩ := e
    obtain ⟨hj, hr⟩ := List.pairwise_cons.mp hw
    by_cases hjk : j = k
    · subst hjk
      obtain rfl : u = v := by simpa [Table.get] using h
      have hrest : Table.erase j rest = rest :=
        List.filter_eq_self.2 fun e he => by simpa using Nat.ne_of_gt (hj e he)
      have : Table.erase j ((j, u) :: rest) = rest := by simpa [Table.erase] using hrest
      rw [this]
    · have h' : Table.get k rest = some v := by simpa [Table.get, hjk] using h
      have : Table.erase k ((j, u) :: rest) = (j, u) :: Table.erase k rest := by simp [Table.erase, hjk]
      rw [this]
      exact ((ih hr h').cons _).trans (List.Perm.swap _ _ _)

end

/-- The pending entries of the records outside a slot. -/
def Engine.entriesBut (e : Engine) (slot : Nat) : List Entry := (e.accounts.erase slot).flatMap (fun a => a.2.pending)

theorem Engine.entries_perm {e : Engine} {slot : Nat} {r : Record} (hw : Table.wf e.accounts)
    (h : e.accounts.get slot = some r) : e.entries.Perm (r.pending ++ e.entriesBut slot) := by
  simpa [Engine.entries, Engine.entriesBut] using (Table.perm_of_get hw h).flatMap_right (fun a => a.2.pending)

theorem Engine.entries_put_perm {e e' : Engine} {slot : Nat} {r : Record} (hw : Table.wf e.accounts)
    (accounts : e'.accounts = e.accounts.put slot r) : e'.entries.Perm (r.pending ++ e.entriesBut slot) := by
  have := Engine.entries_perm (e := e') (slot := slot) (r := r) (accounts ▸ Table.wf_put _ _ hw)
    (accounts ▸ Table.get_put_same _ _ _)
  rwa [Engine.entriesBut, accounts, Table.erase_put] at this

theorem Engine.entriesBut_of_free {e : Engine} {slot : Nat} (h : e.accounts.get slot = none) :
    e.entriesBut slot = e.entries := by
  rw [Engine.entriesBut, Table.erase_of_free h, Engine.entries]

theorem Engine.mem_entries {e : Engine} {slot : Nat} {r : Record} {en : Entry} (h : e.accounts.get slot = some r)
    (hen : en ∈ r.pending) : en ∈ e.entries :=
  List.mem_flatMap.2 ⟨_, Table.mem_of_get h, hen⟩

/-! ## The directory, read by number (R1, R2, R3) -/

/-- `Engine.directoryWf`, said of what the tables hold under each number. -/
structure Engine.Directed (e : Engine) : Prop where
  accounts  : Table.wf e.accounts
  directory : Table.wf e.directory
  record {slot : Nat} {r : Record} (h : e.accounts.get slot = some r) :
    slot < Config.slots ∧ kitInRange r.kit = true ∧ e.directory.get r.kit = some slot
  listed {kit slot : Nat} (h : e.directory.get kit = some slot) : ∃ r, e.accounts.get slot = some r ∧ r.kit = kit

theorem Engine.directoryWf_iff {e : Engine} : e.directoryWf ↔ e.Directed := by
  constructor
  · rintro ⟨accounts, directory, record, listed⟩
    rw [Table.forall_mem_iff accounts] at record
    rw [Table.forall_mem_iff directory] at listed
    exact ⟨accounts, directory, record _ _, fun h => Option.map_eq_some_iff.1 (listed _ _ h)⟩
  · intro h
    exact ⟨h.accounts, h.directory, (Table.forall_mem_iff h.accounts).2 fun _ _ => h.record,
      (Table.forall_mem_iff h.directory).2 fun _ _ g => Option.map_eq_some_iff.2 (h.listed g)⟩

/-- No kit has two records. -/
theorem Engine.Directed.slot_unique {e : Engine} (h : e.Directed) {slot slot' : Nat} {r r' : Record}
    (g : e.accounts.get slot = some r) (g' : e.accounts.get slot' = some r') (hk : r.kit = r'.kit) : slot = slot' := by
  have := (h.record g).2.2
  rw [hk, (h.record g').2.2] at this
  exact (Option.some.inj this).symm

theorem Engine.Directed.congr {e e' : Engine} (h : e.Directed) (accounts : e'.accounts = e.accounts)
    (directory : e'.directory = e.directory) : e'.Directed :=
  ⟨accounts ▸ h.accounts, directory ▸ h.directory, fun g => directory ▸ h.record (accounts ▸ g),
    fun g => accounts ▸ h.listed (directory ▸ g)⟩

/-- The record of a slot written anew for the same kit. -/
theorem Engine.Directed.put {e e' : Engine} (hd : e.Directed) {slot : Nat} {r r' : Record}
    (hr : e.accounts.get slot = some r) (kit : r'.kit = r.kit) (accounts : e'.accounts = e.accounts.put slot r')
    (directory : e'.directory = e.directory) : e'.Directed where
  accounts := accounts ▸ Table.wf_put _ _ hd.accounts
  directory := directory ▸ hd.directory
  record {i r₁} g := by
    rw [directory]
    rw [accounts, Table.get_put] at g
    split at g
    next same =>
      cases g
      rw [kit, same]
      exact hd.record hr
    · exact hd.record g
  listed {k i} g := by
    obtain ⟨r₁, h₁, hk⟩ := hd.listed (directory ▸ g)
    rw [accounts, Table.get_put]
    split
    next same =>
      obtain rfl := Option.some.inj (hr.symm.trans (same ▸ h₁))
      exact ⟨r', rfl, kit.trans hk⟩
    · exact ⟨r₁, h₁, hk⟩

/-- A new kit's record written into a free slot (R14). -/
theorem Engine.Directed.enrol {e e' : Engine} (hd : e.Directed) {slot : Nat} {r : Record}
    (range : kitInRange r.kit = true) (fresh : e.directory.get r.kit = none) (bound : slot < Config.slots)
    (free : e.accounts.get slot = none) (accounts : e'.accounts = e.accounts.put slot r)
    (directory : e'.directory = e.directory.put r.kit slot) : e'.Directed where
  accounts := accounts ▸ Table.wf_put _ _ hd.accounts
  directory := directory ▸ Table.wf_put _ _ hd.directory
  record {i r₁} g := by
    rw [accounts, Table.get_put] at g
    rw [directory]
    split at g
    next same =>
      cases g
      exact ⟨same ▸ bound, range, same ▸ Table.get_put_same _ _ _⟩
    next =>
      obtain ⟨hi, hk, hl⟩ := hd.record g
      refine ⟨hi, hk, ?_⟩
      rw [Table.get_put_other (fun same => by rw [same, fresh] at hl; cases hl), hl]
  listed {k i} g := by
    rw [directory, Table.get_put] at g
    rw [accounts]
    split at g
    next same =>
      cases g
      exact ⟨r, Table.get_put_same _ _ _, same.symm⟩
    next =>
      obtain ⟨r₁, h₁, hk⟩ := hd.listed g
      exact ⟨r₁, by rw [Table.get_put_other (fun same => by rw [same, free] at h₁; cases h₁), h₁], hk⟩

/-- A record taken out of its slot, and its kit out of the directory (R21). -/
theorem Engine.Directed.erase {e e' : Engine} (hd : e.Directed) {slot : Nat} {r : Record}
    (hr : e.accounts.get slot = some r) (accounts : e'.accounts = e.accounts.erase slot)
    (directory : e'.directory = e.directory.erase r.kit) : e'.Directed where
  accounts := accounts ▸ Table.wf_erase _ hd.accounts
  directory := directory ▸ Table.wf_erase _ hd.directory
  record {i r₁} g := by
    rw [accounts, Table.get_erase] at g
    split at g
    · cases g
    next other =>
      obtain ⟨hi, hk, hl⟩ := hd.record g
      refine ⟨hi, hk, ?_⟩
      rw [directory, Table.get_erase, if_neg fun same => other (hd.slot_unique g hr same), hl]
  listed {k i} g := by
    rw [directory, Table.get_erase] at g
    split at g
    · cases g
    next other =>
      obtain ⟨r₁, h₁, hk⟩ := hd.listed g
      refine ⟨r₁, ?_, hk⟩
      rw [accounts, Table.get_erase, if_neg, h₁]
      rintro rfl
      obtain rfl := Option.some.inj (hr.symm.trans h₁)
      exact other hk.symm

/-! ## The plans in their ranges (R39) -/

/-- Plans in canonical form, each within the ranges that the money rules rest on. -/
structure PlansPay (plans : Table Plan) : Prop where
  wf : Table.wf plans
  pays {n : Nat} {p : Plan} (h : plans.get n = some p) : p.paysWf

theorem PlansPay.put {plans : Table Plan} (h : PlansPay plans) {p : Plan} (hp : p.paysWf) (n : Nat) :
    PlansPay (plans.put n p) where
  wf := Table.wf_put _ _ h.wf
  pays g := by
    rw [Table.get_put] at g
    split at g
    · cases g
      exact hp
    · exact h.pays g

theorem PlansPay.erase {plans : Table Plan} (h : PlansPay plans) (n : Nat) : PlansPay (plans.erase n) where
  wf := Table.wf_erase _ h.wf
  pays g := by
    rw [Table.get_erase] at g
    split at g
    · cases g
    · exact h.pays g

theorem PlansPay.countPlan {e : Engine} (h : PlansPay e.plans) (n : Nat) (f : Nat → Nat) :
    PlansPay (e.countPlan n f).plans := by
  unfold Engine.countPlan
  split
  next p defined =>
    have pays : p.paysWf := h.pays defined
    exact h.put (p := { p with refCount := f p.refCount }) pays n
  · exact h

/-- The plan that DEFINE PLAN writes has its fields in their ranges (R39, R42). -/
theorem PlanNums.paysWf_plan {p : PlanNums} (h : p.inRange.all id = true) (count : Nat) : (p.plan count).paysWf := by
  simp only [PlanNums.inRange, List.all_cons, id_eq, Bool.and_eq_true, within_iff] at h
  obtain ⟨⟨rate, -⟩, -, ⟨minimum, -⟩, -⟩ := h
  exact ⟨rate, minimum⟩

/-- The plan that AMEND PLAN writes keeps those ranges: a field not carried is the one held (R44). -/
theorem Plan.paysWf_amended {held : Plan} {changes : Nat} {p : PlanNums} (h : held.paysWf)
    (range : changesInRange changes p.inRange = true) : (held.amended changes p).paysWf := by
  simp only [changesInRange, PlanNums.inRange, List.zipIdx_cons, List.all_cons, Bool.and_eq_true, Bool.or_eq_true,
    Bool.not_eq_true', within_iff, zero_add, Nat.reduceAdd] at range
  obtain ⟨rate, -, minimum, -⟩ := range
  simp only [Plan.paysWf, Plan.amended, PlanNums.plan]
  constructor
  · split
    next carried => exact (rate.resolve_left (by simp [carried])).1
    · exact h.1
  · split
    next carried => exact (minimum.resolve_left (by simp [carried])).1
    · exact h.2

/-- DEFINE PLAN writes such a plan, or nothing. -/
theorem PlansPay.definePlan {e : Engine} (h : PlansPay e.plans) (n : Nat) (p : PlanNums) :
    ∃ plans, PlansPay plans ∧ (e.definePlan n p).1 = { e with plans := plans } := by
  unfold Engine.definePlan
  split
  · exact ⟨_, h, rfl⟩
  next range =>
  split
  · exact ⟨_, h, rfl⟩
  · simp only [Bool.not_eq_true', Bool.not_eq_false, Bool.and_eq_true] at range
    obtain ⟨⟨-, good⟩, -⟩ := range
    exact ⟨_, h.put (PlanNums.paysWf_plan good 0) n, rfl⟩

/-- AMEND PLAN writes such a plan, or nothing. -/
theorem PlansPay.amendPlan {e : Engine} (h : PlansPay e.plans) (n changes : Nat) (p : PlanNums) :
    ∃ plans, PlansPay plans ∧ (e.amendPlan n changes p).1 = { e with plans := plans } := by
  unfold Engine.amendPlan
  split
  · exact ⟨_, h, rfl⟩
  next range =>
  split
  · exact ⟨_, h, rfl⟩
  next held defined =>
  dsimp only
  split
  · exact ⟨_, h, rfl⟩
  split
  · exact ⟨_, h, rfl⟩
  · simp only [Bool.not_eq_true', Bool.not_eq_false, Bool.and_eq_true] at range
    obtain ⟨-, good⟩ := range
    exact ⟨_, h.put (Plan.paysWf_amended (h.pays defined) good) n, rfl⟩

/-! ## The order of the settlement index (R66) -/

section
variable {α : Type} {r : α → α → Prop} [DecidableRel r]

/-- Inserting before the first that comes later keeps the order, `r` being a strict order of ranks. -/
theorem pairwise_orderedInsert_strict (hr : ∀ a b c, r a b → ¬r c b → r a c) (asymm : ∀ a b, r a b → ¬r b a)
    (a : α) {l : List α} (h : l.Pairwise fun x y => ¬r y x) : (l.orderedInsert r a).Pairwise fun x y => ¬r y x := by
  induction l with
  | nil => simp
  | cons b rest ih =>
    obtain ⟨hb, hrest⟩ := List.pairwise_cons.1 h
    rw [List.orderedInsert_cons]
    split
    next first =>
      refine List.pairwise_cons.2 ⟨fun x hx => ?_, h⟩
      obtain rfl | hx := List.mem_cons.1 hx
      · exact asymm _ _ first
      · exact asymm _ _ (hr _ _ _ first (hb x hx))
    next later =>
      refine List.pairwise_cons.2 ⟨fun x hx => ?_, ih hrest⟩
      obtain rfl | hx := (List.mem_orderedInsert ..).1 hx
      · exact later
      · exact hb x hx

/-- What is kept of an ordered list after an insertion is what was kept of it before, with the new one inserted if it is
kept too. -/
theorem filter_orderedInsert_strict (hr : ∀ a b c, r a b → ¬r c b → r a c) (p : α → Bool) (a : α) {l : List α}
    (h : l.Pairwise fun x y => ¬r y x) :
    (l.orderedInsert r a).filter p = if p a then (l.filter p).orderedInsert r a else l.filter p := by
  induction l with
  | nil => by_cases ha : p a <;> simp [ha]
  | cons b rest ih =>
    obtain ⟨hb, hrest⟩ := List.pairwise_cons.1 h
    rw [List.orderedInsert_cons]
    split
    next first =>
      have head {l' : List α} (hl : ∀ x ∈ l', r a x) : l'.orderedInsert r a = a :: l' := by
        cases l' with
        | nil => rfl
        | cons x _ => exact List.orderedInsert_cons_of_le _ _ (hl x List.mem_cons_self)
      have before : ∀ x ∈ (b :: rest).filter p, r a x := fun x hx => by
        obtain rfl | hx := List.mem_cons.1 (List.mem_of_mem_filter hx)
        · exact first
        · exact hr _ _ _ first (hb x hx)
      rw [head before, List.filter_cons]
    next later =>
      rw [List.filter_cons, ih hrest, List.filter_cons]
      by_cases hp : p b <;> by_cases ha : p a <;> simp [hp, ha, later]

end

theorem settleInsert_eq (d : SettleItem) (l : List SettleItem) :
    settleInsert d l = l.orderedInsert (fun a b => a.before b = true) d := by
  induction l with
  | nil => rfl
  | cons e rest ih => rw [settleInsert, ih, List.orderedInsert_cons]

theorem insertByDeadline_eq (en : Entry) (l : List Entry) :
    insertByDeadline en l = l.orderedInsert (fun a b => a.deadline < b.deadline) en := by
  induction l with
  | nil => rfl
  | cons e rest ih => rw [insertByDeadline, ih, List.orderedInsert_cons]

theorem SettleItem.before_iff {a b : SettleItem} :
    a.before b = true ↔ a.deadline < b.deadline ∨ a.deadline = b.deadline ∧ a.kit < b.kit := by
  simp [SettleItem.before]

theorem SettleItem.before_of_not_before (a b c : SettleItem) (h : a.before b = true) (g : ¬c.before b = true) :
    a.before c = true := by
  simp only [SettleItem.before_iff] at *
  omega

/-- The settlement index in its order (R66). -/
def settleOrdered (index : List SettleItem) : Prop := index.Pairwise (fun a b => b.before a = false)

theorem settleOrdered_iff {index : List SettleItem} :
    settleOrdered index ↔ index.Pairwise (fun a b => ¬b.before a = true) := by
  simp only [settleOrdered, Bool.not_eq_true]

theorem settleOrdered_settleInsert {d : SettleItem} {l : List SettleItem} (h : settleOrdered l) :
    settleOrdered (settleInsert d l) := by
  rw [settleOrdered_iff] at *
  rw [settleInsert_eq]
  refine pairwise_orderedInsert_strict SettleItem.before_of_not_before (fun a b g => ?_) d h
  simp only [SettleItem.before_iff] at *
  omega

theorem settleOrdered_settleRemove {kit reference : Nat} {l : List SettleItem} (h : settleOrdered l) :
    settleOrdered (settleRemove kit reference l) :=
  h.sublist List.filter_sublist

/-- The entries of one kit in the settlement index. -/
def settleOf (kit : Nat) (index : List SettleItem) : List SettleItem := index.filter (fun i => i.kit == kit)

theorem mem_settleOf {kit : Nat} {i : SettleItem} {l : List SettleItem} : i ∈ settleOf kit l ↔ i ∈ l ∧ i.kit = kit := by
  simp [settleOf]

theorem settleOf_settleInsert {kit : Nat} {d : SettleItem} {l : List SettleItem} (h : settleOrdered l) :
    settleOf kit (settleInsert d l) = if d.kit = kit then settleInsert d (settleOf kit l) else settleOf kit l := by
  simp only [settleOf, settleInsert_eq]
  rw [filter_orderedInsert_strict SettleItem.before_of_not_before _ d (settleOrdered_iff.1 h)]
  simp

theorem settleOf_settleRemove_other {kit kit' reference : Nat} (h : kit' ≠ kit) (l : List SettleItem) :
    settleOf kit' (settleRemove kit reference l) = settleOf kit' l := by
  simp only [settleOf, settleRemove, List.filter_filter]
  refine List.filter_congr fun i _ => ?_
  by_cases hi : i.kit = kit' <;> simp [hi, h]

theorem settleOf_settleRemove (kit reference : Nat) (l : List SettleItem) :
    settleOf kit (settleRemove kit reference l) = (settleOf kit l).filter (fun i => !(i.reference == reference)) := by
  simp only [settleOf, settleRemove, List.filter_filter]
  refine List.filter_congr fun i _ => ?_
  by_cases hi : i.kit = kit
  · simp [hi]
  · simp [beq_eq_false_iff_ne.2 hi]

/-! ## Pending entries by deadline (R66) -/

theorem byDeadline_append (l : List Entry) (en : Entry) : byDeadline (l ++ [en]) = insertByDeadline en (byDeadline l) := by
  simp [byDeadline]

theorem byDeadline_ordered (l : List Entry) : (byDeadline l).Pairwise (fun a b => ¬b.deadline < a.deadline) := by
  induction l using List.reverseRecOn with
  | nil => exact .nil
  | append_singleton l en ih =>
    rw [byDeadline_append, insertByDeadline_eq]
    exact pairwise_orderedInsert_strict (fun _ _ _ h g => by omega) (fun _ _ h => by omega) en ih

theorem byDeadline_filter (p : Entry → Bool) (l : List Entry) : byDeadline (l.filter p) = (byDeadline l).filter p := by
  induction l using List.reverseRecOn with
  | nil => rfl
  | append_singleton l en ih =>
    rw [byDeadline_append, insertByDeadline_eq,
      filter_orderedInsert_strict (fun _ _ _ h g => by omega) p en (byDeadline_ordered l), List.filter_append, ← ih]
    by_cases hp : p en
    · simp [hp, byDeadline_append, insertByDeadline_eq]
    · simp [hp]

/-- The part of the settlement index that a kit's pending entries call for (R66). -/
def settleItems (kit : Nat) (pending : List Entry) : List SettleItem := (byDeadline pending).map (fun en => en.item kit)

@[simp] theorem Entry.item_kit (en : Entry) (kit : Nat) : (en.item kit).kit = kit := rfl

theorem settleItems_removeEntry (kit reference : Nat) (pending : List Entry) :
    settleItems kit (removeEntry reference pending) =
      (settleItems kit pending).filter (fun i => !(i.reference == reference)) := by
  simp only [settleItems, removeEntry, byDeadline_filter, List.filter_map]
  rfl

theorem settleItems_append (kit : Nat) (pending : List Entry) (en : Entry) :
    settleItems kit (pending ++ [en]) = settleInsert (en.item kit) (settleItems kit pending) := by
  simp only [settleItems, byDeadline_append, insertByDeadline_eq, settleInsert_eq]
  exact List.map_orderedInsert _ _ _ _ _ (fun a _ => by simp [SettleItem.before_iff, Entry.item])
    fun a _ => by simp [SettleItem.before_iff, Entry.item]

end Sys2Proof.Machine

/-! # Work on a record keeps its money exact -/

namespace Sys2Proof.Machine

/-! ## Pool and agents against a list of entries (R64, R90) -/

/-- What is outstanding to an agent from some entries (R90). -/
def owedBy (agent : Nat) (entries : List Entry) : Nat := amountSum (entries.filter (fun en => en.agent == agent))

theorem owedBy_cons (agent : Nat) (en : Entry) (entries : List Entry) :
    owedBy agent (en :: entries) = (if agent = en.agent then en.amount else 0) + owedBy agent entries := by
  by_cases h : agent = en.agent
  · simp [owedBy, amountSum, h]
  · simp [owedBy, h, Ne.symm h]

theorem owedBy_perm {agent : Nat} {entries entries' : List Entry} (h : entries.Perm entries') :
    owedBy agent entries = owedBy agent entries' :=
  ((h.filter _).map Entry.amount).sum_eq

/-- Entries with a reference, an amount and an agent that is not CLOSED (R63, R100). -/
def Entry.soundIn (en : Entry) (agents : Table Agent) : Prop :=
  0 < en.reference ∧ 0 < en.amount ∧ (agents.get en.agent).isSome = true

/-- The entries fill the pool together with its free places, and are what each agent has outstanding (R64, R90). -/
structure Engine.Balanced (e : Engine) (entries : List Entry) : Prop where
  agents : Table.wf e.agents
  pool   : e.poolFree + entries.length = Config.poolEntries
  sound {en : Entry} (h : en ∈ entries) : en.soundIn e.agents
  owed {n : Nat} {a : Agent} (h : e.agents.get n = some a) : a.outstanding = owedBy n entries

theorem Engine.Balanced.perm {e : Engine} {entries entries' : List Entry} (h : e.Balanced entries)
    (p : entries.Perm entries') : e.Balanced entries' :=
  ⟨h.agents, p.length_eq ▸ h.pool, fun g => h.sound (p.mem_iff.2 g), fun g => (h.owed g).trans (owedBy_perm p)⟩

theorem Engine.Balanced.congr {e e' : Engine} {entries : List Entry} (h : e.Balanced entries)
    (agents : e'.agents = e.agents) (pool : e'.poolFree = e.poolFree) : e'.Balanced entries :=
  ⟨agents ▸ h.agents, pool ▸ h.pool, fun g => agents ▸ h.sound g, fun g => h.owed (agents ▸ g)⟩

theorem Engine.wf_changeAgent {e : Engine} (h : Table.wf e.agents) (n : Nat) (f : Agent → Agent) :
    Table.wf (e.changeAgent n f).agents := by
  unfold Engine.changeAgent
  split
  · exact Table.wf_put _ _ h
  · exact h

/-- Changing an agent's slot closes no agent. -/
theorem Engine.changeAgent_isSome (e : Engine) (n m : Nat) (f : Agent → Agent) :
    ((e.changeAgent n f).agents.get m).isSome = (e.agents.get m).isSome := by
  rw [Engine.changeAgent_get]
  split
  next same => rw [same, Option.isSome_map]
  · rfl

/-- An entry leaves, and its agent's outstanding falls by its amount (R76, R77). -/
theorem Engine.Balanced.take {e e' : Engine} {en : Entry} {entries : List Entry} {f : Agent → Agent}
    (h : e.Balanced (en :: entries)) (hf : ∀ a, (f a).outstanding = a.outstanding - en.amount)
    (agents : e'.agents = (e.changeAgent en.agent f).agents) (pool : e'.poolFree = e.poolFree + 1) :
    e'.Balanced entries where
  agents := agents ▸ Engine.wf_changeAgent h.agents _ _
  pool := by
    have := h.pool
    rw [List.length_cons] at this
    omega
  sound g := by
    obtain ⟨reference, amount, agent⟩ := h.sound (List.mem_cons_of_mem _ g)
    exact ⟨reference, amount, by rw [agents, Engine.changeAgent_isSome, agent]⟩
  owed {n a} g := by
    rw [agents, Engine.changeAgent_get] at g
    split at g
    next same =>
      obtain ⟨b, hb, rfl⟩ := Option.map_eq_some_iff.1 g
      rw [hf, h.owed hb, owedBy_cons, if_pos rfl, same, Nat.add_sub_cancel_left]
    next other => rw [h.owed g, owedBy_cons, if_neg other, Nat.zero_add]

/-- An entry joins, and its agent's outstanding rises by its amount (R73). -/
theorem Engine.Balanced.add {e e' : Engine} {en : Entry} {entries : List Entry} {f : Agent → Agent}
    (h : e.Balanced entries) (sound : en.soundIn e.agents) (room : 0 < e.poolFree)
    (hf : ∀ a, (f a).outstanding = a.outstanding + en.amount)
    (agents : e'.agents = (e.changeAgent en.agent f).agents) (pool : e'.poolFree = e.poolFree - 1) :
    e'.Balanced (en :: entries) where
  agents := agents ▸ Engine.wf_changeAgent h.agents _ _
  pool := by
    have := h.pool
    rw [List.length_cons]
    omega
  sound {en'} g := by
    have : en'.soundIn e.agents := by
      obtain rfl | g := List.mem_cons.1 g
      · exact sound
      · exact h.sound g
    obtain ⟨reference, amount, agent⟩ := this
    exact ⟨reference, amount, by rw [agents, Engine.changeAgent_isSome, agent]⟩
  owed {n a} g := by
    rw [agents, Engine.changeAgent_get] at g
    split at g
    next same =>
      obtain ⟨b, hb, rfl⟩ := Option.map_eq_some_iff.1 g
      rw [hf, h.owed hb, owedBy_cons, if_pos same, same, Nat.add_comm]
    next other => rw [h.owed g, owedBy_cons, if_neg other, Nat.zero_add]

/-! ## Tables on the way from one record to the next -/

/-- The tables `e'` are those of `e` at work on the record of a slot, which is now `r` and not yet put back: the money is
exact with the entries of `r` beside those of the other records, whose part of the settlement index is as it was. -/
structure Engine.Exact (e : Engine) (slot kit : Nat) (e' : Engine) (r : Record) : Prop where
  kept      : r.kit = kit
  accounts  : e'.accounts = e.accounts
  directory : e'.directory = e.directory
  plans     : PlansPay e'.plans
  agents (n : Nat) : (e'.agents.get n).isSome = (e.agents.get n).isSome
  balanced  : e'.Balanced (r.pending ++ e.entriesBut slot)
  few       : r.pending.length ≤ Config.pendingPerRecord
  distinct  : (r.pending.map Entry.reference).Nodup
  ordered   : settleOrdered e'.settlement
  mine      : settleOf kit e'.settlement = settleItems kit r.pending
  others {k : Nat} (h : k ≠ kit) : settleOf k e'.settlement = settleOf k e.settlement

/-- Work gone on from `w₀` to `w` with the money exact. -/
structure Work.Exact (w₀ w : Work) : Prop where
  slot   : w.slot = w₀.slot
  tables : w₀.engine.Exact w₀.slot w₀.record.kit w.engine w.record

/-- Work that touches no money: neither entries, pool, agents, settlement index nor what finds the record; the plans stay in
their ranges. -/
structure Work.SameMoney (w w' : Work) : Prop where
  slot       : w'.slot = w.slot
  kit        : w'.record.kit = w.record.kit
  pending    : w'.record.pending = w.record.pending
  accounts   : w'.engine.accounts = w.engine.accounts
  directory  : w'.engine.directory = w.engine.directory
  plans      : PlansPay w.engine.plans → PlansPay w'.engine.plans
  agents     : w'.engine.agents = w.engine.agents
  poolFree   : w'.engine.poolFree = w.engine.poolFree
  settlement : w'.engine.settlement = w.engine.settlement

theorem Work.SameMoney.refl (w : Work) : w.SameMoney w := ⟨rfl, rfl, rfl, rfl, rfl, id, rfl, rfl, rfl⟩

theorem Work.SameMoney.trans {a b c : Work} (h : a.SameMoney b) (g : b.SameMoney c) : a.SameMoney c :=
  ⟨g.slot.trans h.slot, g.kit.trans h.kit, g.pending.trans h.pending, g.accounts.trans h.accounts,
    g.directory.trans h.directory, g.plans ∘ h.plans, g.agents.trans h.agents, g.poolFree.trans h.poolFree,
    g.settlement.trans h.settlement⟩

theorem Work.Exact.same {w₀ w w' : Work} (h : w₀.Exact w) (g : w.SameMoney w') : w₀.Exact w' where
  slot := g.slot.trans h.slot
  tables :=
    { kept := g.kit.trans h.tables.kept
      accounts := g.accounts.trans h.tables.accounts
      directory := g.directory.trans h.tables.directory
      plans := g.plans h.tables.plans
      agents := fun n => g.agents ▸ h.tables.agents n
      balanced := g.pending ▸ h.tables.balanced.congr g.agents g.poolFree
      few := g.pending ▸ h.tables.few
      distinct := g.pending ▸ h.tables.distinct
      ordered := g.settlement ▸ h.tables.ordered
      mine := by rw [g.settlement, g.pending, h.tables.mine]
      others := fun hk => g.settlement ▸ h.tables.others hk }

/-! ### The pieces of work that touch no money -/

theorem Work.sameMoney_raise (w : Work) (n : Notice) : w.SameMoney (w.raise n) :=
  ⟨rfl, rfl, rfl, rfl, rfl, id, rfl, rfl, rfl⟩

theorem Work.sameMoney_raiseIf (w : Work) (c : Bool) (n : Notice) : w.SameMoney (w.raiseIf c n) := by
  cases c
  · exact .refl w
  · exact w.sameMoney_raise n

theorem Work.sameMoney_rekey (w : Work) : w.SameMoney w.rekey := ⟨rfl, rfl, rfl, rfl, rfl, id, rfl, rfl, rfl⟩

theorem Work.sameMoney_remind (w : Work) (t : Nat) : w.SameMoney (w.remind t) := by
  rw [Work.remind_eq]
  exact ⟨rfl, rfl, rfl, rfl, rfl, id, rfl, rfl, rfl⟩

theorem Work.sameMoney_recompute (w : Work) (t : Nat) : w.SameMoney (w.recompute t) :=
  ⟨rfl, rfl, rfl, rfl, rfl, id, rfl, rfl, rfl⟩

theorem Work.sameMoney_creditNotices (w : Work) (before : RecordState) (t : Nat) :
    w.SameMoney (w.creditNotices before t) :=
  ((w.sameMoney_raiseIf _ _).trans (Work.sameMoney_raiseIf _ _ _)).trans (Work.sameMoney_remind _ t)

theorem Work.sameMoney_becomeOwned (w : Work) : w.SameMoney w.becomeOwned :=
  ⟨rfl, rfl, rfl, rfl, rfl, id, rfl, rfl, rfl⟩

theorem Work.sameMoney_credit (w : Work) (m t : Nat) : w.SameMoney (w.credit m t) := by
  obtain ⟨same, -, -, -, -, -, pending, -, -, agents, pool, settlement⟩ := w.credit_spec m t
  exact ⟨same.slot, same.kit, pending, same.accounts, same.directory, (same.plans ▸ ·), agents, pool, settlement⟩

/-- Fields of the record that hold no money, written anew. -/
theorem Work.sameMoney_record (w : Work) {r : Record} (kit : r.kit = w.record.kit := by rfl)
    (pending : r.pending = w.record.pending := by rfl) : w.SameMoney { w with record := r } :=
  ⟨rfl, kit, pending, rfl, rfl, id, rfl, rfl, rfl⟩

theorem Work.sameMoney_settleOnPlan (w : Work) (t : Nat) : w.SameMoney (w.settleOnPlan t) := by
  unfold Work.settleOnPlan
  split
  · exact w.sameMoney_becomeOwned
  split
  · exact .refl w
  · exact (((w.sameMoney_recompute t).trans (Work.sameMoney_raiseIf _ _ _)).trans (Work.sameMoney_remind _ t)).trans
      (Work.sameMoney_rekey _)

theorem Work.sameMoney_suspended (w : Work) (reason : Nat) : w.SameMoney (w.suspended reason) :=
  ⟨rfl, rfl, rfl, rfl, rfl, id, rfl, rfl, rfl⟩

theorem Work.sameMoney_recordReport (w : Work) (m : CheckInMsg) (n : LineNo) (t : Nat) :
    w.SameMoney (w.recordReport m n t) :=
  w.sameMoney_record.trans (Work.sameMoney_raiseIf _ _ _)

theorem Work.sameMoney_compareHeld (w : Work) (held : Nat) : w.SameMoney (w.compareHeld held) :=
  w.sameMoney_record.trans (Work.sameMoney_raiseIf _ _ _)

/-! ### An entry settled -/

/-- Work that takes an entry off its record and off its agent's outstanding, and touches no other money (R76, R77). -/
def Work.Takes (w : Work) (en : Entry) (w' : Work) : Prop :=
  ∃ f : Agent → Agent, (∀ a, (f a).outstanding = a.outstanding - en.amount) ∧ (w.takeEntry en f).SameMoney w'

theorem Work.Takes.same {w w' w'' : Work} {en : Entry} (h : w.Takes en w') (g : w'.SameMoney w'') : w.Takes en w'' := by
  obtain ⟨f, hf, same⟩ := h
  exact ⟨f, hf, same.trans g⟩

theorem Work.takes_confirmEntry (w : Work) (en : Entry) : w.Takes en (w.confirmEntry en).1 := by
  refine ⟨fun a => a.settle en.amount, fun _ => rfl, ?_⟩
  by_cases h : w.record.state = .owned
  · rw [Work.confirmEntry_owned h]
    exact .refl _
  by_cases hp : 0 < w.plan.price ∧ w.plan.price ≤ w.record.confirmed + en.amount
  · rw [Work.confirmEntry_completes h hp]
    exact (Work.sameMoney_record _).trans (Work.sameMoney_becomeOwned _)
  · rw [Work.confirmEntry_credits h hp]
    exact ⟨rfl, rfl, rfl, rfl, rfl, id, rfl, rfl, rfl⟩

theorem Work.takes_reverseEntry (w : Work) (en : Entry) : w.Takes en (w.reverseEntry en) := by
  refine ⟨fun a => a.unsettle en.amount, fun _ => rfl, ?_⟩
  unfold Work.reverseEntry
  dsimp only
  split
  · exact .refl _
  · exact (Work.sameMoney_record _).trans (Work.sameMoney_raiseIf _ _ _)

theorem Work.takes_timedSettle (w : Work) (en : Entry) : w.Takes en (w.timedSettle en) := by
  unfold Work.timedSettle
  split
  · exact (w.takes_confirmEntry en).same (Work.sameMoney_raise _ _)
  · exact (w.takes_reverseEntry en).same (Work.sameMoney_raise _ _)

theorem Work.takes_forceReverse (w : Work) (en : Entry) : w.Takes en (w.forceReverse en) :=
  ⟨fun a => a.unsettle en.amount, fun _ => rfl, .refl _⟩

theorem Work.takes_reverseNow (w : Work) (en : Entry) (t : Nat) : w.Takes en (w.reverseNow en t) := by
  unfold Work.reverseNow
  split
  · exact w.takes_reverseEntry en
  · exact (w.takes_reverseEntry en).same
      (((Work.sameMoney_recompute _ t).trans (Work.sameMoney_creditNotices _ _ t)).trans (Work.sameMoney_rekey _))

/-- A list of entries with distinct references is one of them and what its removal leaves. -/
theorem perm_cons_removeEntry {en : Entry} {pending : List Entry} (hen : en ∈ pending)
    (distinct : (pending.map Entry.reference).Nodup) : pending.Perm (en :: removeEntry en.reference pending) := by
  induction pending with
  | nil => cases hen
  | cons x rest ih =>
    rw [List.map_cons, List.nodup_cons] at distinct
    obtain ⟨fresh, distinct⟩ := distinct
    obtain rfl | hen := List.mem_cons.1 hen
    · have : removeEntry en.reference (en :: rest) = rest := by
        simp only [removeEntry, List.filter_cons, beq_self_eq_true, Bool.not_true, Bool.false_eq_true, if_false]
        refine List.filter_eq_self.2 fun y hy => ?_
        simpa using fun same : y.reference = en.reference => fresh (same ▸ List.mem_map_of_mem hy)
      rw [this]
    · have other : x.reference ≠ en.reference := fun same => fresh (same ▸ List.mem_map_of_mem hen)
      have : removeEntry en.reference (x :: rest) = x :: removeEntry en.reference rest := by simp [removeEntry, other]
      rw [this]
      exact ((ih hen distinct).cons _).trans (List.Perm.swap _ _ _)

theorem Work.Exact.takeEntry {w₀ w : Work} (h : w₀.Exact w) {en : Entry} (hen : en ∈ w.record.pending)
    {f : Agent → Agent} (hf : ∀ a, (f a).outstanding = a.outstanding - en.amount) : w₀.Exact (w.takeEntry en f) := by
  obtain ⟨slot, tables⟩ := h
  have same := w.same_takeEntry en f
  have pending : (w.takeEntry en f).record.pending = removeEntry en.reference w.record.pending := rfl
  have agents : (w.takeEntry en f).engine.agents = (w.engine.changeAgent en.agent f).agents := by
    simp only [Work.takeEntry, Work.dropEntry, Engine.changeAgent]
    split <;> rfl
  exact
    { slot
      tables :=
        { kept := tables.kept
          accounts := same.accounts.trans tables.accounts
          directory := same.directory.trans tables.directory
          plans := same.plans ▸ tables.plans
          agents := fun n => by rw [agents, Engine.changeAgent_isSome, tables.agents]
          balanced := by
            refine (tables.balanced.perm ?_).take (en := en) hf agents (by simp)
            exact (perm_cons_removeEntry hen tables.distinct).append_right _
          few := (List.length_filter_le _ _).trans tables.few
          distinct := tables.distinct.sublist (List.filter_sublist.map _)
          ordered := by
            rw [Work.takeEntry_settlement]
            exact settleOrdered_settleRemove tables.ordered
          mine := by
            rw [Work.takeEntry_settlement, tables.kept, settleOf_settleRemove, tables.mine, pending,
              settleItems_removeEntry]
          others := fun hk => by
            rw [Work.takeEntry_settlement, tables.kept, settleOf_settleRemove_other hk, tables.others hk] } }

theorem Work.Exact.takes {w₀ w w' : Work} (h : w₀.Exact w) {en : Entry} (hen : en ∈ w.record.pending)
    (g : w.Takes en w') : w₀.Exact w' := by
  obtain ⟨f, hf, same⟩ := g
  exact (h.takeEntry hen hf).same same

theorem Work.Takes.pending {w w' : Work} {en : Entry} (h : w.Takes en w') :
    w'.record.pending = removeEntry en.reference w.record.pending := by
  obtain ⟨f, -, same⟩ := h
  exact same.pending

/-- Entries of the record settled one after the other, their references distinct. -/
theorem Work.Exact.foldl_takes {step : Work → Entry → Work} (hs : ∀ w en, Work.Takes w en (step w en)) {w₀ w : Work}
    (h : w₀.Exact w) {entries : List Entry} (held : ∀ en ∈ entries, en ∈ w.record.pending)
    (distinct : (entries.map Entry.reference).Nodup) : w₀.Exact (entries.foldl step w) := by
  induction entries generalizing w with
  | nil => exact h
  | cons en rest ih =>
    rw [List.map_cons, List.nodup_cons] at distinct
    obtain ⟨fresh, distinct⟩ := distinct
    refine ih (h.takes (held en List.mem_cons_self) (hs w en)) (fun x hx => ?_) distinct
    rw [(hs w en).pending, mem_removeEntry]
    exact ⟨held x (List.mem_cons_of_mem _ hx), fun same => fresh (same ▸ List.mem_map_of_mem hx)⟩

/-- What is still pending was pending, and is none of those settled. -/
theorem Work.mem_foldl_takes {step : Work → Entry → Work} (hs : ∀ w en, Work.Takes w en (step w en)) {w : Work}
    {entries : List Entry} {x : Entry} (hx : x ∈ (entries.foldl step w).record.pending) :
    x ∈ w.record.pending ∧ x ∉ entries := by
  induction entries generalizing w with
  | nil => exact ⟨hx, List.not_mem_nil⟩
  | cons en rest ih =>
    obtain ⟨left, fresh⟩ := ih hx
    rw [(hs w en).pending, mem_removeEntry] at left
    exact ⟨left.1, fun held => (List.mem_cons.1 held).elim (fun same => left.2 (same ▸ rfl)) fresh⟩

theorem perm_insertByDeadline (en : Entry) (l : List Entry) : (insertByDeadline en l).Perm (en :: l) := by
  rw [insertByDeadline_eq]
  exact List.perm_orderedInsert _ _ _

theorem perm_byDeadline (l : List Entry) : (byDeadline l).Perm l := by
  induction l using List.reverseRecOn with
  | nil => exact .refl _
  | append_singleton l en ih =>
    rw [byDeadline_append]
    exact (perm_insertByDeadline en _).trans ((ih.cons en).trans (List.perm_append_singleton en l).symm)

theorem dueEntries_eq (t : Nat) (pending : List Entry) :
    dueEntries t pending = byDeadline (pending.filter (fun en => en.deadline ≤ t)) := rfl

/-- The entries due have distinct references when those of the record have. -/
theorem nodup_dueEntries {pending : List Entry} (t : Nat) (h : (pending.map Entry.reference).Nodup) :
    ((dueEntries t pending).map Entry.reference).Nodup := by
  rw [dueEntries_eq, ((perm_byDeadline _).map _).nodup_iff]
  exact h.sublist (List.filter_sublist.map _)

theorem Work.Exact.current {w₀ w : Work} (h : w₀.Exact w) (t : Nat) : w₀.Exact (w.current t) := by
  have settled : w₀.Exact (w.settleDue t) :=
    h.foldl_takes Work.takes_timedSettle (fun en hen => (mem_dueEntries.1 hen).1) (nodup_dueEntries t h.tables.distinct)
  exact settled.same
    (((Work.sameMoney_recompute _ t).trans (Work.sameMoney_creditNotices _ _ t)).trans (Work.sameMoney_rekey _))

/-! ### The requests and messages on a record that is current -/

/-- The tables that work ends with when the record it has made is put back. -/
def Work.EndsExact (w₀ : Work) (e : Engine) : Prop := ∃ w, w₀.Exact w ∧ e = w.commit

theorem Work.Exact.ends {w₀ w : Work} (h : w₀.Exact w) : w₀.EndsExact w.commit := ⟨w, h, rfl⟩

section
variable {w₀ w : Work} (h : w₀.Exact w)
include h

theorem Work.Exact.suspend (reason : Nat) : w₀.EndsExact (w.suspend reason).1 := by
  by_cases hs : w.record.state = .suspended ∨ w.record.state = .owned
  · rw [Work.suspend_refused hs]
    exact h.ends
  · obtain ⟨hs, ho⟩ := not_or.1 hs
    rw [Work.suspend_accepted hs ho]
    exact (h.same (w.sameMoney_suspended reason)).ends

theorem Work.Exact.resume (t : Nat) : w₀.EndsExact (w.resume t).1 := by
  unfold Work.resume
  split
  · exact (h.same ((w.sameMoney_record.trans (Work.sameMoney_remind _ t)).trans (Work.sameMoney_rekey _))).ends
  · exact h.ends

theorem Work.Exact.setKey (key : Word32) : w₀.EndsExact (w.setKey key).1 :=
  (h.same w.sameMoney_record).ends

theorem Work.Exact.pay (calendar : CalendarState) (amount t : Nat) : w₀.EndsExact (w.pay calendar amount t).1 := by
  unfold Work.pay
  split
  · exact h.ends
  split
  · exact h.ends
  split
  · exact h.ends
  split
  · exact (h.same w.sameMoney_becomeOwned).ends
  split
  · exact h.ends
  next c _ => exact (h.same (w.sameMoney_record.trans (Work.sameMoney_credit (w.takePay c) c.minutes t))).ends

theorem Work.Exact.confirm (reference : Nat) : w₀.EndsExact (w.confirm reference).1 := by
  unfold Work.confirm
  split
  · exact h.ends
  next en found => exact (h.takes (List.mem_of_find?_eq_some found) (w.takes_confirmEntry en)).ends

theorem Work.Exact.reverse (reference t : Nat) : w₀.EndsExact (w.reverse reference t).1 := by
  unfold Work.reverse
  split
  · exact h.ends
  next en found => exact (h.takes (List.mem_of_find?_eq_some found) (w.takes_reverseNow en t)).ends

theorem Work.Exact.badCheck : w₀.Exact w.badCheck :=
  h.same (w.sameMoney_record.trans (Work.sameMoney_raiseIf _ _ _))

theorem Work.Exact.goodCheck (m : CheckInMsg) (n : LineNo) (calendar : CalendarState) (t : Nat) :
    w₀.Exact (w.goodCheck m n calendar t).1 := by
  have current := (h.same (w.sameMoney_record (r := { w.record with badChecks := 0 }))).current t
  exact current.same
    (((Work.sameMoney_recordReport _ m n t).trans (Work.sameMoney_compareHeld _ m.held)).trans (Work.sameMoney_record _))

end

end Sys2Proof.Machine

/-! # Pool, settlement index and outstandings stay exact -/

namespace Sys2Proof.Machine

/-! ## An entry made (R64, R66, R73, R90) -/

/-- An accepted conversion accepts something, the rate and the least amount being above 0 (R51, R54). -/
theorem convert_accepted_pos {p : Plan} {amount base t : Nat} {c : Conversion} (pays : p.paysWf)
    (least : p.minimum ≤ amount) (h : convert p amount 0 base t = some c) : 0 < c.accepted := by
  obtain ⟨rate, minimum⟩ := pays
  unfold convert at h
  dsimp only at h
  split at h
  · cases h
    exact minimum.trans_le least
  split at h
  · cases h
  split at h
  · cases h
  next above =>
    cases h
    have minutes : 0 < (p.capLimit t - base) * p.rate := Nat.mul_pos (by omega) rate
    simp only [clampConversion, Nat.sub_zero]
    unfold Config.dayMinutes
    omega

/-- No pending entry carries the reference (R72). -/
theorem findEntry_eq_none {reference : Nat} {pending : List Entry} (h : findEntry reference pending = none) :
    reference ∉ pending.map Entry.reference := by
  simpa [findEntry] using h

theorem Work.Exact.addEntry {w₀ w : Work} (h : w₀.Exact w) {m : TopUpMsg} {a : Agent} {c : Conversion} {t : Nat}
    (fresh : findEntry m.reference w.record.pending = none) (room : w.record.pending.length < Config.pendingPerRecord)
    (pool : 0 < w.engine.poolFree) (sound : (m.entry a c t).soundIn w.engine.agents) :
    w₀.Exact (w.addEntry m a c t) := by
  obtain ⟨slot, tables⟩ := h
  have same := w.same_addEntry m a c t
  have pending : (w.addEntry m a c t).record.pending = w.record.pending ++ [m.entry a c t] := rfl
  have agents : (w.addEntry m a c t).engine.agents =
      (w.engine.changeAgent (m.entry a c t).agent (fun a => a.charge c.accepted)).agents := rfl
  have settlement : (w.addEntry m a c t).engine.settlement =
      settleInsert ((m.entry a c t).item w₀.record.kit) w.engine.settlement := by
    simp only [Work.addEntry, Engine.changeAgent_settlement, tables.kept]
    rfl
  exact
    { slot
      tables :=
        { kept := tables.kept
          accounts := same.accounts.trans tables.accounts
          directory := same.directory.trans tables.directory
          plans := same.plans ▸ tables.plans
          agents := fun n => by rw [agents, Engine.changeAgent_isSome, tables.agents]
          balanced := by
            refine (tables.balanced.add sound pool (fun _ => rfl) agents ?_).perm ?_
            · simp only [Work.addEntry, Engine.changeAgent_poolFree]
            · rw [pending, List.append_assoc]
              exact List.perm_middle.symm
          few := by
            rw [pending, List.length_append]
            exact room
          distinct := by
            rw [pending, List.map_append]
            refine tables.distinct.append (List.nodup_singleton _) fun x hx hx' => ?_
            obtain rfl := List.mem_singleton.1 hx'
            exact findEntry_eq_none fresh hx
          ordered := by
            rw [settlement]
            exact settleOrdered_settleInsert tables.ordered
          mine := by
            rw [settlement, settleOf_settleInsert tables.ordered, Entry.item_kit, if_pos rfl, tables.mine, pending,
              settleItems_append]
          others := fun hk => by
            rw [settlement, settleOf_settleInsert tables.ordered, Entry.item_kit, if_neg (Ne.symm hk),
              tables.others hk] } }

theorem Work.Exact.topUp {w₀ w : Work} (h : w₀.Exact w) {m : TopUpMsg} {a : Agent} (pays : w.plan.paysWf)
    (agent : w₀.engine.agents.get m.agent = some a) (reference : m.reference ≠ 0) (calendar : CalendarState) (t : Nat) :
    w₀.Exact (w.topUp m a calendar t).1 := by
  unfold Work.topUp
  split
  · exact h
  split
  · unfold Work.duplicate
    split <;> exact h
  next fresh =>
  split
  · exact h
  split
  · exact h
  next least =>
  split
  · exact h
  next room =>
  split
  · exact h
  next pool =>
  split
  · exact h
  next c converted =>
  dsimp only
  split
  · exact h
  · have sound : (m.entry a c t).soundIn w.engine.agents :=
      ⟨Nat.pos_of_ne_zero reference, convert_accepted_pos pays (Nat.le_of_not_lt least) converted,
        (h.tables.agents m.agent).trans (by rw [agent]; rfl)⟩
    have added := h.addEntry fresh (Nat.lt_of_not_le room) (Nat.pos_of_ne_zero pool) sound
    exact added.same (Work.sameMoney_credit (w.addEntry m a c t) c.minutes t)

/-- A request or message that found a record brings it to an end with the money exact. -/
theorem Work.Served.exact {w : Work} {t : Nat} {e : Engine} (h : w.Served t e) (start : w.Exact w)
    (pays : w.plan.paysWf) : w.EndsExact e := by
  have current := start.current t
  cases h with
  | current => exact current.ends
  | suspend reason => exact current.suspend reason
  | resume => exact current.resume t
  | setKey key => exact current.setKey key
  | pay calendar amount => exact current.pay calendar amount t
  | confirm reference => exact current.confirm reference
  | reverse reference => exact current.reverse reference t
  | goodCheck m n calendar => exact (start.goodCheck m n calendar t).ends
  | badCheck => exact start.badCheck.ends
  | topUp m a calendar agent reference =>
    exact (current.topUp ((w.same_current t).plan ▸ pays) agent reference calendar t).ends

/-! ## The money of the tables, read by number (R64 to R66, R90) -/

/-- `Engine.moneyWf`, said of what the tables hold under each number. -/
structure Engine.Money (e : Engine) : Prop where
  directed : e.Directed
  plans    : PlansPay e.plans
  balanced : e.Balanced e.entries
  pending {slot : Nat} {r : Record} (h : e.accounts.get slot = some r) :
    r.pending.length ≤ Config.pendingPerRecord ∧ (r.pending.map Entry.reference).Nodup
  ordered  : settleOrdered e.settlement
  known {i : SettleItem} (h : i ∈ e.settlement) : (e.directory.get i.kit).isSome = true
  settles {slot : Nat} {r : Record} (h : e.accounts.get slot = some r) :
    settleOf r.kit e.settlement = settleItems r.kit r.pending

theorem Engine.moneyWf_iff {e : Engine} : e.moneyWf ↔ e.Money := by
  constructor
  · rintro ⟨directory, plans, agents, pays, pool, pending, sound, owed, ordered, known, settles⟩
    have directed := Engine.directoryWf_iff.1 directory
    rw [Table.forall_mem_iff directed.accounts] at pending settles
    rw [Table.forall_mem_iff plans] at pays
    rw [Table.forall_mem_iff agents] at owed
    exact
      { directed, ordered
        plans := ⟨plans, pays _ _⟩
        balanced := ⟨agents, pool, sound _, owed _ _⟩
        pending := pending _ _
        known := known _
        settles := settles _ _ }
  · intro h
    have accounts := h.directed.accounts
    refine ⟨Engine.directoryWf_iff.2 h.directed, h.plans.wf, h.balanced.agents, ?_, h.balanced.pool, ?_,
      fun _ => h.balanced.sound, ?_, h.ordered, fun _ => h.known, ?_⟩
    · exact (Table.forall_mem_iff h.plans.wf).2 fun _ _ => h.plans.pays
    · exact (Table.forall_mem_iff accounts).2 fun _ _ => h.pending
    · exact (Table.forall_mem_iff h.balanced.agents).2 fun _ _ => h.balanced.owed
    · exact (Table.forall_mem_iff accounts).2 fun _ _ => h.settles

section
variable {e : Engine} (h : e.Money)
include h

/-- The tables before any work on one of their records. -/
theorem Engine.Money.exact {slot : Nat} {r : Record} (hr : e.accounts.get slot = some r) :
    e.Exact slot r.kit e r where
  kept := rfl
  accounts := rfl
  directory := rfl
  plans := h.plans
  agents _ := rfl
  balanced := h.balanced.perm (Engine.entries_perm h.directed.accounts hr)
  few := (h.pending hr).1
  distinct := (h.pending hr).2
  ordered := h.ordered
  mine := h.settles hr
  others _ := rfl

/-- What stands in the settlement index while a record is worked on, of that kit or of another, is of a kit in the
directory. -/
theorem Engine.Exact.known {slot : Nat} {r r' : Record} {e' : Engine} (x : e.Exact slot r.kit e' r')
    (hr : e.accounts.get slot = some r) {i : SettleItem} (hi : i ∈ e'.settlement) :
    (e.directory.get i.kit).isSome = true := by
  by_cases mine : i.kit = r.kit
  · rw [mine, (h.directed.record hr).2.2]
    rfl
  · have : i ∈ settleOf i.kit e.settlement := x.others mine ▸ mem_settleOf.2 ⟨hi, rfl⟩
    exact h.known (mem_settleOf.1 this).1

/-- The record put back into its slot. -/
theorem Engine.Money.put {slot : Nat} {r r' : Record} {e' : Engine} (hr : e.accounts.get slot = some r)
    (x : e.Exact slot r.kit e' r') : ({ e' with accounts := e'.accounts.put slot r' } : Engine).Money := by
  have accounts : e'.accounts.put slot r' = e.accounts.put slot r' := by rw [x.accounts]
  exact
    { directed := h.directed.put hr x.kept accounts x.directory
      plans := x.plans
      balanced := (x.balanced.perm (Engine.entries_put_perm h.directed.accounts accounts).symm).congr rfl rfl
      ordered := x.ordered
      pending := fun {i r₁} g => by
        dsimp only at g
        rw [accounts, Table.get_put] at g
        split at g
        · cases g
          exact ⟨x.few, x.distinct⟩
        · exact h.pending g
      known := fun hi => by
        dsimp only
        rw [x.directory]
        exact x.known h hr hi
      settles := fun {i r₁} g => by
        dsimp only at g ⊢
        rw [accounts, Table.get_put] at g
        split at g
        · cases g
          rw [x.kept]
          exact x.mine
        next other =>
          rw [x.others fun same => other (h.directed.slot_unique g hr same)]
          exact h.settles g }

/-- The record, with no entry left, taken out of its slot (R21). -/
theorem Engine.Money.remove {slot : Nat} {r r' : Record} {e' e'' : Engine} (hr : e.accounts.get slot = some r)
    (x : e.Exact slot r.kit e' r') (none : r'.pending = []) (accounts : e''.accounts = e.accounts.erase slot)
    (directory : e''.directory = e.directory.erase r.kit) (plans : PlansPay e''.plans)
    (agents : e''.agents = e'.agents) (pool : e''.poolFree = e'.poolFree)
    (settlement : e''.settlement = e'.settlement) : e''.Money where
  directed := h.directed.erase hr accounts directory
  plans := plans
  balanced := by
    have entries : e''.entries = e.entriesBut slot := by rw [Engine.entries, accounts, Engine.entriesBut]
    have := x.balanced
    rw [none, List.nil_append, ← entries] at this
    exact this.congr agents pool
  ordered := settlement ▸ x.ordered
  pending g := by
    rw [accounts, Table.get_erase] at g
    split at g
    · cases g
    · exact h.pending g
  known {i} hi := by
    rw [settlement] at hi
    rw [directory, Table.get_erase, if_neg]
    · exact x.known h hr hi
    · intro mine
      have : i ∈ settleOf r.kit e'.settlement := mem_settleOf.2 ⟨hi, mine⟩
      rw [x.mine, none] at this
      cases this
  settles g := by
    rw [accounts, Table.get_erase] at g
    split at g
    · cases g
    next other =>
      rw [settlement, x.others fun same => other (h.directed.slot_unique g hr same)]
      exact h.settles g

/-! ## The commands -/

/-- A record with no entries written for a new kit (R14). -/
theorem Engine.Money.enrolKit (kit plan : Nat) (key : Word32) (base : Nat) : (e.enrolKit kit plan key base).1.Money := by
  obtain same | ⟨slot, range, -, -, fresh, bound, free, eq⟩ := e.enrolKit_cases h.directed.accounts kit plan key base
  · rwa [same]
  rw [eq, Engine.countPlan_plans]
  exact
    { directed := h.directed.enrol range fresh bound free rfl rfl
      plans := h.plans.countPlan plan _
      balanced := by
        have added := Engine.entries_put_perm (e := e) (slot := slot) (r := .enrolled kit plan key base)
          (e' := { e with accounts := e.accounts.put slot (.enrolled kit plan key base) }) h.directed.accounts rfl
        rw [Engine.entriesBut_of_free free] at added
        exact (h.balanced.perm added.symm).congr rfl rfl
      ordered := h.ordered
      pending := fun {i r₁} g => by
        rw [Table.get_put] at g
        split at g
        · cases g
          exact ⟨Nat.zero_le _, .nil⟩
        · exact h.pending g
      known := fun hi => by
        rw [Table.get_put]
        split
        · rfl
        · exact h.known hi
      settles := fun {i r₁} g => by
        rw [Table.get_put] at g
        split at g
        · cases g
          refine List.filter_eq_nil_iff.2 fun i hi => ?_
          have known := h.known hi
          simp only [Record.enrolled, beq_iff_eq]
          intro same
          rw [same, fresh] at known
          cases known
        · exact h.settles g }

theorem Engine.Money.withPlans {plans : Table Plan} (hp : PlansPay plans) :
    ({ e with plans := plans } : Engine).Money :=
  { h with directed := h.directed.congr rfl rfl
           plans := hp
           balanced := h.balanced.congr rfl rfl }

theorem Engine.Money.withNotices (notices : List Nat) : ({ e with notices := notices } : Engine).Money :=
  { h with directed := h.directed.congr rfl rfl
           balanced := h.balanced.congr rfl rfl }

theorem Engine.Money.withAgents {agents : Table Agent}
    (balanced : ({ e with agents := agents } : Engine).Balanced e.entries) :
    ({ e with agents := agents } : Engine).Money :=
  { h with directed := h.directed.congr rfl rfl
           balanced := balanced }

theorem Engine.Money.clearNotices (kit : Nat) : (e.clearNotices kit).Money := by
  unfold Engine.clearNotices Engine.recordOf
  cases hd : e.directory.get kit with
  | none => exact h
  | some slot =>
    obtain ⟨r, hr, -⟩ := h.directed.listed hd
    simp only [hr, Option.map_some]
    have x := h.exact hr
    exact h.put (r' := { r with notices := .clear }) hr
      ⟨rfl, rfl, rfl, x.plans, x.agents, x.balanced, x.few, x.distinct, x.ordered, x.mine, x.others⟩

omit h in
theorem Engine.money_foldl_clearNotices {e : Engine} (h : e.Money) (kits : List Nat) :
    (kits.foldl Engine.clearNotices e).Money := by
  induction kits generalizing e with
  | nil => exact h
  | cons kit rest ih => exact ih (h.clearNotices kit)

theorem Engine.Money.takeNotices (count : Nat) : (e.takeNotices count).1.Money := by
  unfold Engine.takeNotices
  split
  · exact h
  · exact (Engine.money_foldl_clearNotices h _).withNotices _

/-! ### The requests on agents (chapter 5) -/

/-- An agent's slot written with the outstanding that its entries call for. -/
theorem Engine.Money.putAgent {n : Nat} {a : Agent} (owed : a.outstanding = owedBy n e.entries) :
    (e.putAgent n a).Money := by
  refine h.withAgents ⟨Table.wf_put _ _ h.balanced.agents, h.balanced.pool, fun {en} hen => ?_, fun {m b} g => ?_⟩
  · obtain ⟨reference, amount, agent⟩ := h.balanced.sound hen
    refine ⟨reference, amount, ?_⟩
    rw [Table.get_put]
    split
    · rfl
    · exact agent
  · rw [Table.get_put] at g
    split at g
    next same =>
      cases g
      rw [same, owed]
    · exact h.balanced.owed g

/-- An agent's slot written with its outstanding kept. -/
theorem Engine.Money.amendAgent {n : Nat} {a b : Agent} (found : e.agents.get n = some a)
    (kept : b.outstanding = a.outstanding) : (e.putAgent n b).Money :=
  h.putAgent (kept.trans (h.balanced.owed found))

/-- No entry is of an agent that is CLOSED. -/
theorem Engine.Money.owedBy_closed {n : Nat} (closed : e.agents.get n = none) : owedBy n e.entries = 0 := by
  have : e.entries.filter (fun en => en.agent == n) = [] := by
    refine List.filter_eq_nil_iff.2 fun en hen => ?_
    obtain ⟨-, -, agent⟩ := h.balanced.sound hen
    simp only [beq_iff_eq]
    intro same
    rw [same, closed] at agent
    cases agent
  simp [owedBy, this, amountSum]

/-- No entry is of an agent that has nothing outstanding. -/
theorem Engine.Money.agent_ne {n : Nat} {a : Agent} (open_ : e.agents.get n = some a) (clear : a.outstanding = 0)
    {en : Entry} (hen : en ∈ e.entries) : en.agent ≠ n := by
  rintro same
  obtain ⟨-, amount, -⟩ := h.balanced.sound hen
  have mine : en.amount ∈ (e.entries.filter (fun en => en.agent == n)).map Entry.amount :=
    List.mem_map_of_mem (List.mem_filter.2 ⟨hen, by simpa using same⟩)
  have : en.amount ≤ owedBy n e.entries := List.single_le_sum (fun _ _ => Nat.zero_le _) _ mine
  rw [← h.balanced.owed open_] at this
  omega

/-- An agent without entries closed (R100). -/
theorem Engine.Money.eraseAgent {n : Nat} {a : Agent} (open_ : e.agents.get n = some a) (clear : a.outstanding = 0) :
    ({ e with agents := e.agents.erase n } : Engine).Money := by
  refine h.withAgents ⟨Table.wf_erase _ h.balanced.agents, h.balanced.pool, fun {en} hen => ?_, fun {m b} g => ?_⟩
  · obtain ⟨reference, amount, agent⟩ := h.balanced.sound hen
    refine ⟨reference, amount, ?_⟩
    rw [Table.get_erase, if_neg (h.agent_ne open_ clear hen)]
    exact agent
  · rw [Table.get_erase] at g
    split at g
    · cases g
    · exact h.balanced.owed g

theorem Engine.Money.onAgent {agent : Nat} {good : Bool} {work : Agent → AgentWorked}
    (hw : ∀ a, e.agents.get agent = some a → (work a).1.Money) : (e.onAgent agent good work).1.Money := by
  unfold Engine.onAgent
  split
  · exact h
  split
  · exact h
  next a found => exact hw a found

theorem Engine.AgentWork.money {e' : Engine} (work : e.AgentWork e') : e'.Money := by
  cases work with
  | openAgent agent f =>
    unfold Engine.openAgent
    split
    · exact h
    split
    · exact h
    next closed => exact h.putAgent (h.owedBy_closed (by simpa using closed)).symm
  | amendAgent agent changes f => exact h.onAgent fun a found => h.amendAgent found rfl
  | setBarred agent barred =>
    refine h.onAgent fun a found => ?_
    split
    · exact h
    · exact h.amendAgent found rfl
  | closeAgent agent =>
    refine h.onAgent fun a found => ?_
    split
    · exact h
    next clear => exact h.eraseAgent found (Nat.eq_zero_of_not_pos clear)
  | clearWatermark agent => exact h.onAgent fun a found => h.amendAgent found rfl

/-! ### The commands on a record -/

variable {kit : Nat} {w : Work} (found : e.find kit = .found w)
include found

/-- The record found, before any work on it. -/
theorem Engine.Money.start : w.Exact w := by
  obtain ⟨rfl, -, hr, -⟩ := Engine.find_spec found
  exact ⟨rfl, h.exact hr⟩

theorem Engine.Money.ends {e' : Engine} (work : w.EndsExact e') : e'.Money := by
  obtain ⟨w', ⟨slot, tables⟩, rfl⟩ := work
  obtain ⟨rfl, -, hr, -⟩ := Engine.find_spec found
  rw [Work.commit, slot]
  exact h.put hr tables

theorem Engine.Money.served {t : Nat} {e' : Engine} (work : w.Served t e') : e'.Money := by
  obtain ⟨-, -, -, defined⟩ := Engine.find_spec found
  exact h.ends found (work.exact (h.start found) (h.plans.pays defined))

omit h found in
/-- The record under its new plan, the counts of the plans moved (R20). -/
theorem Work.sameMoney_moved (w : Work) (plan : Nat) (new : Plan) : w.SameMoney (w.moved plan new) := by
  have counted : (w.moved plan new).engine = { w.engine with plans := (w.moved plan new).engine.plans } := by
    rw [Work.moved, Engine.countPlan_plans, Engine.countPlan_plans]
  have plans (g : PlansPay w.engine.plans) : PlansPay (w.moved plan new).engine.plans :=
    (g.countPlan _ _).countPlan _ _
  generalize (w.moved plan new).engine.plans = counts at counted plans
  exact ⟨rfl, rfl, rfl, by rw [counted], by rw [counted], by rwa [counted], by rw [counted], by rw [counted],
    by rw [counted]⟩

theorem Engine.Money.move (plan : Nat) (new : Plan) (t : Nat) : ((w.current t).move plan new t).1.Money := by
  have current := (h.start found).current t
  obtain eq | ⟨-, -, eq⟩ := (w.current t).move_cases plan new t
  · rw [eq]
    exact h.ends found current.ends
  · rw [eq]
    exact h.ends found
      (current.same ((Work.sameMoney_moved _ plan new).trans (Work.sameMoney_settleOnPlan _ t))).ends

theorem Engine.Money.retire (force : Bool) (t : Nat) : ((w.current t).retire force).1.Money := by
  have current := (h.start found).current t
  obtain eq | eq := (w.current t).retire_cases force
  · rw [eq]
    exact h.ends found current.ends
  rw [eq]
  obtain ⟨accounts, directory, plans⟩ := Work.removed_spec (t := t) found (w.current t).record.pending
  have reversed := current.foldl_takes Work.takes_forceReverse (fun _ => id) current.tables.distinct
  have none : ((w.current t).record.pending.foldl Work.forceReverse (w.current t)).record.pending = [] :=
    List.eq_nil_iff_forall_not_mem.2 fun en hen =>
      (Work.mem_foldl_takes Work.takes_forceReverse hen).2 (Work.mem_foldl_takes Work.takes_forceReverse hen).1
  obtain ⟨rfl, -, hr, -⟩ := Engine.find_spec found
  refine h.remove hr reversed.tables none accounts directory (plans ▸ h.plans.countPlan _ _) ?_ ?_ ?_
  all_goals rw [Work.remove, Engine.countPlan_plans]

end

/-- Every change that a command can make of the tables keeps their money exact. -/
theorem Engine.Change.money {e e' : Engine} {t : Nat} (change : e.Change t e') (h : e.Money) : e'.Money := by
  cases change with
  | same => exact h
  | cold =>
    obtain ⟨-, -, -, -, money⟩ := Engine.invariants_cold
    exact Engine.moneyWf_iff.1 money
  | agents work => exact work.money h
  | definePlan plan p =>
    obtain ⟨plans, pays, eq⟩ := h.plans.definePlan plan p
    exact eq ▸ h.withPlans pays
  | amendPlan plan changes p =>
    obtain ⟨plans, pays, eq⟩ := h.plans.amendPlan plan changes p
    exact eq ▸ h.withPlans pays
  | releasePlan plan =>
    obtain eq | ⟨-, -, -, eq⟩ := e.releasePlan_cases plan
    · rwa [eq]
    · rw [eq]
      exact h.withPlans (h.plans.erase plan)
  | enrolKit kit plan key base => exact h.enrolKit kit plan key base
  | takeNotices count => exact h.takeNotices count
  | served found work => exact h.served found work
  | move found defined => exact h.move found _ _ t
  | retire found force => exact h.retire found force t

/-- Settles O56: each change that a command can make of the tables keeps pool, settlement index and outstandings exact. -/
theorem provisionalMoneyStaysExact : Obligations.ProvisionalMoneyStaysExact := by
  intro c s s' money h
  exact Engine.moneyWf_iff.2 ((exec_change h).money (Engine.moneyWf_iff.1 money))

end Sys2Proof.Machine

/-! # Requests that write an agent, and STATUS -/

namespace Sys2Proof.Machine

/-! ## The answer to a request on an agent (R94) -/

section
variable {s : State} {agent : Nat} {worked : AgentWorked} {e : Engine} {result : Result} {fields : List Field}

/-- A request on an agent is answered with its result, the agent number and the fields of its work (R94). -/
theorem State.answer_agent {q : Request} (h : s.grantedRequest = some q) (work : worked = (e, result, fields)) :
    s.answer (some (worked.1, agentResponse q agent worked.2.1 worked.2.2)) =
      .next (s.responded e ⟨BitVec.ofNat 8 q.code, result, byteField agent :: fields⟩) := by
  rw [work]
  exact State.answer_granted h _ _

theorem exec_openAgent {f : AgentNums} (h : s.grantedRequest = some (.openAgent agent f))
    (work : s.engine.openAgent agent f = (e, result, fields)) :
    exec .openAgent s = .next (s.responded e ⟨0x30, result, byteField agent :: fields⟩) := by
  simp only [exec, execOpenAgent, h]
  exact State.answer_agent h work

theorem exec_amendAgent {changes : Nat} {f : AgentNums} (h : s.grantedRequest = some (.amendAgent agent changes f))
    (work : s.engine.amendAgent agent changes f = (e, result, fields)) :
    exec .amendAgent s = .next (s.responded e ⟨0x31, result, byteField agent :: fields⟩) := by
  simp only [exec, execAmendAgent, h]
  exact State.answer_agent h work

theorem exec_clearWatermark (h : s.grantedRequest = some (.clearWatermark agent))
    (work : s.engine.clearWatermark agent = (e, result, fields)) :
    exec .clearWatermark s = .next (s.responded e ⟨0x36, result, byteField agent :: fields⟩) := by
  simp only [exec, execClearWatermark, h]
  exact State.answer_agent h work

end

/-! ## OPEN AGENT (R88, R95) -/

/-- The number and every field of OPEN AGENT in range (R88, R94). -/
def AgentNums.openable (f : AgentNums) (agent : Nat) : Bool := agentInRange agent && f.inRange.all id

theorem AgentNums.openable_iff {f : AgentNums} {agent : Nat} :
    f.openable agent = true ↔ (1 ≤ agent ∧ agent ≤ 64) ∧ f.limit ≤ 2000000000 ∧ (1 ≤ f.window ∧ f.window ≤ 168) ∧
      (policyOf f.policy).isSome = true := by
  simp only [AgentNums.openable, AgentNums.inRange, List.all_cons, List.all_nil, id, Bool.and_eq_true,
    decide_eq_true_eq, agentInRange_iff, within_iff, true_and, and_true]
  exact and_congr_right' (and_congr_right' and_comm)

section
variable {e : Engine} {agent : Nat} {f : AgentNums}

theorem Engine.openAgent_badField (h : ¬f.openable agent = true) : e.openAgent agent f = (e, .badField, []) :=
  if_pos (by rwa [Bool.not_eq_true', ← Bool.not_eq_true])

/-- OPEN AGENT with its number and its fields in range (R95). -/
theorem Engine.openAgent_openable (h : f.openable agent = true) :
    e.openAgent agent f =
      if (e.agents.get agent).isSome then (e, .wrongState, []) else (e.putAgent agent f.opened, .done, []) :=
  if_neg (by rwa [Bool.not_eq_true', Bool.not_eq_false])

end

/-- The slot that numbers spell whose policy code is in the type table (R88, R192). -/
theorem AgentNums.opened_eq {f : AgentNums} {policy : Policy} (h : policyOf f.policy = some policy) :
    f.opened =
      { barred := false, key := BitVec.ofNat 32 f.key, limit := f.limit, outstanding := 0, settled := 0, reversed := 0,
        policy := policy, window := f.window, watermark := false } := by
  simp only [AgentNums.opened, h, Option.getD_some]

/-! ## AMEND AGENT (R96, R97) -/

/-- The change set and every field carried of AMEND AGENT in range (R96). -/
def AgentNums.changeable (f : AgentNums) (changes : Nat) : Bool :=
  changes < 2 ^ 4 && changesInRange changes f.inRange

theorem AgentNums.changeable_iff {f : AgentNums} {changes : Nat} :
    f.changeable changes = true ↔ changes < 16 ∧ (changes.testBit 1 = true → f.limit ≤ 2000000000) ∧
      (changes.testBit 2 = true → (policyOf f.policy).isSome = true) ∧
      (changes.testBit 3 = true → 1 ≤ f.window ∧ f.window ≤ 168) := by
  have carried (i : Nat) (good : Bool) : (!changes.testBit i || good) = true ↔ (changes.testBit i = true → good = true) := by
    rw [Bool.or_eq_true, Bool.not_eq_true', ← Bool.not_eq_true, imp_iff_not_or]
  simp only [AgentNums.changeable, AgentNums.inRange, changesInRange, List.zipIdx_cons, List.zipIdx_nil,
    List.all_cons, List.all_nil, carried, Bool.and_eq_true, decide_eq_true_eq, within_iff, implies_true, true_and, and_true,
    Nat.reducePow, Nat.reduceAdd]
  exact Iff.rfl

section
variable {e : Engine} {agent changes : Nat} {f : AgentNums}

theorem Engine.amendAgent_badField (h : ¬((1 ≤ agent ∧ agent ≤ 64) ∧ f.changeable changes = true)) :
    e.amendAgent agent changes f = (e, .badField, []) :=
  if_pos (by rwa [Bool.not_eq_true', ← Bool.not_eq_true, Bool.and_eq_true, agentInRange_iff])

/-- AMEND AGENT with its change set and the fields carried in range is work on the agent named (R96, R97). -/
theorem Engine.amendAgent_changeable (h : f.changeable changes = true) :
    e.amendAgent agent changes f = e.onAgent agent true fun a =>
      (e.putAgent agent (a.amended changes f), .done,
        [wordField (a.amended changes f).limit, byteField (a.amended changes f).policy.code,
          byteField (a.amended changes f).window, moneyField a.outstanding]) :=
  congrArg (e.onAgent agent · _) h

end

theorem Agent.amended_eq {a : Agent} {changes : Nat} {f : AgentNums} {policy : Policy}
    (h : some policy = if changes.testBit 2 then policyOf f.policy else some a.policy) :
    a.amended changes f =
      { a with
        key := if changes.testBit 0 then BitVec.ofNat 32 f.key else a.key
        limit := if changes.testBit 1 then f.limit else a.limit
        policy := policy
        window := if changes.testBit 3 then f.window else a.window } := by
  rw [← coded_of_some (other := .reverse) h]
  rfl

/-- Settles O23: the checks of OPEN AGENT and the slot it writes, the checks of AMEND AGENT and the slot it changes. -/
theorem openAndAmendAgent : Obligations.OpenAndAmendAgent := by
  refine ⟨fun s agent f h => ?_, fun s agent changes f h => ?_⟩
  · intro good
    have range : f.openable agent = true ↔ good := AgentNums.openable_iff
    refine ⟨fun bad => ?_, fun ok held => ?_, fun policy ok closed code => ?_⟩
    · exact exec_openAgent h (Engine.openAgent_badField (mt range.1 bad))
    · exact exec_openAgent h ((Engine.openAgent_openable (range.2 ok)).trans (if_pos held))
    · have unheld : ¬(s.engine.agents.get agent).isSome = true := by simp [closed]
      rw [← AgentNums.opened_eq code]
      exact exec_openAgent h ((Engine.openAgent_openable (range.2 ok)).trans (if_neg unheld))
  · intro good
    have range : (1 ≤ agent ∧ agent ≤ 64) ∧ f.changeable changes = true ↔ good :=
      and_congr_right' AgentNums.changeable_iff
    refine ⟨fun bad => ?_, fun ok closed => ?_, fun a policy ok found code => ?_⟩
    · exact exec_amendAgent h (Engine.amendAgent_badField (mt range.1 bad))
    all_goals obtain ⟨⟨low, high⟩, fields⟩ := range.2 ok
    · exact exec_amendAgent h ((Engine.amendAgent_changeable fields).trans (Engine.onAgent_closed low high closed))
    · have work := (Engine.amendAgent_changeable (f := f) fields).trans (Engine.onAgent_found low high found)
      rw [Agent.amended_eq code] at work
      exact exec_amendAgent h work

/-! ## BAR AGENT, UNBAR AGENT, CLOSE AGENT and CLEAR WATERMARK (R99 to R101) -/

section
variable {e : Engine} {agent : Nat} {a : Agent} (low : 1 ≤ agent) (high : agent ≤ 64)
  (found : e.agents.get agent = some a)
include low high found

/-- An agent that is there already is refused (R99). -/
theorem Engine.setBarred_same {barred : Bool} (same : a.barred = barred) :
    e.setBarred agent barred = (e, .wrongState, []) :=
  (Engine.onAgent_found low high found).trans (if_pos same)

theorem Engine.setBarred_changed {barred : Bool} (changed : a.barred ≠ barred) :
    e.setBarred agent barred =
      (e.putAgent agent { a with barred := barred }, .done,
        [byteField (if barred then 2 else 1), moneyField a.outstanding]) :=
  (Engine.onAgent_found low high found).trans (if_neg changed)

theorem Engine.closeAgent_pending (pending : 0 < a.outstanding) : e.closeAgent agent = (e, .entriesPending, []) :=
  (Engine.onAgent_found low high found).trans (if_pos pending)

theorem Engine.closeAgent_clear (clear : a.outstanding = 0) :
    e.closeAgent agent =
      ({ e with agents := e.agents.erase agent }, .done,
        [moneyField a.settled, moneyField a.reversed, flagField a.watermark]) :=
  (Engine.onAgent_found low high found).trans (if_neg (Nat.not_lt.2 clear.le))

end

/-- Settles O25: each of the three requests in the two states that it tells apart, and the slot read after CLOSE AGENT. -/
theorem barUnbarAndCloseAgent : Obligations.BarUnbarAndCloseAgent := by
  refine ⟨fun s agent a low high found => ⟨fun h => ?_, fun h => ?_⟩, fun s agent a h low high found => ?_⟩
  · rw [exec_barAgent h]
    exact ⟨fun barred => State.answer_agent h (Engine.setBarred_same low high found barred),
      fun opened => State.answer_agent h (Engine.setBarred_changed low high found (ne_true_of_eq_false opened))⟩
  · rw [exec_unbarAgent h]
    exact ⟨fun opened => State.answer_agent h (Engine.setBarred_same low high found opened),
      fun barred => State.answer_agent h (Engine.setBarred_changed low high found (ne_false_of_eq_true barred))⟩
  · rw [exec_closeAgent h]
    refine ⟨fun pending => State.answer_agent h (Engine.closeAgent_pending low high found pending), fun clear => ⟨?_, ?_⟩⟩
    · exact State.answer_agent h (Engine.closeAgent_clear low high found clear)
    · rw [Table.get_erase, if_pos rfl]

/-- Settles O26: the two refusals, and the watermark written clear whatever it was. -/
theorem clearWatermarkClears : Obligations.ClearWatermarkClears := fun _ _ h =>
  ⟨fun bad => exec_clearWatermark h (Engine.onAgent_badField bad),
    fun low high closed => exec_clearWatermark h (Engine.onAgent_closed low high closed),
    fun _ low high found => exec_clearWatermark h (Engine.onAgent_found low high found)⟩

/-! ## STATUS (R89, R143, R144) -/

theorem exec_status {s : State} {n : LineNo} {m : StatusMsg} (h : s.grantedMessage = some (n, .status m)) :
    exec .status s = s.handle n (s.engine.status m s.instant) := by
  simp only [exec, execStatus, h]

section
variable {e : Engine} {m : StatusMsg} {a : Agent} {t : Nat}

/-- STATUS that comes from no agent leaves the tables and its mark (R143). -/
theorem Engine.status_unknownSender (h : e.senderOf m.agent m.covered m.check = none) :
    e.status m t = some (e, some (.mark (.agent m.agent))) := by
  unfold Engine.status
  split
  · rfl
  next present => exact absurd (h.symm.trans present) (by simp)

variable (sender : e.senderOf m.agent m.covered m.check = some a)
include sender

/-- STATUS of an agent, OPEN or BARRED alike: the checks of R143 on the kit id and the directory. -/
theorem Engine.status_known :
    e.status m t =
      if !kitInRange m.kit then some (e, (m.refused .badField).reply a.key)
      else
        match e.find m.kit with
        | .unknown => some (e, (m.refused .unknownKit).reply a.key)
        | .broken => none
        | .found w => some ((w.current t).commit, ((w.current t).statusAnswer t).reply a.key) := by
  unfold Engine.status
  split
  next absent => exact absurd (sender.symm.trans absent) (by simp)
  next a' present =>
    obtain rfl := Option.some.inj (sender.symm.trans present)
    rfl

theorem Engine.status_badField (bad : ¬(1 ≤ m.kit ∧ m.kit ≤ 4294967294)) :
    e.status m t = some (e, (m.refused .badField).reply a.key) :=
  (Engine.status_known sender).trans (if_pos (by simp [Bool.eq_false_iff.2 (mt kitInRange_iff.1 bad)]))

variable (good : 1 ≤ m.kit ∧ m.kit ≤ 4294967294)
include good

theorem Engine.status_unknownKit (absent : e.directory.get m.kit = none) :
    e.status m t = some (e, (m.refused .unknownKit).reply a.key) := by
  simp [Engine.status_known sender, kitInRange_iff.2 good, Engine.find, absent]

theorem Engine.status_found {w : Work} (found : e.find m.kit = .found w) :
    e.status m t = some ((w.current t).commit, ((w.current t).statusAnswer t).reply a.key) := by
  simp [Engine.status_known sender, kitInRange_iff.2 good, found]

end

/-- The agent in the slot that a message names, its number being in range (R71, R143). -/
theorem Engine.named_eq_some {e : Engine} {number : Nat} {a : Agent} :
    (if 1 ≤ number ∧ number ≤ 64 then e.agents.get number else none) = some a ↔
      agentInRange number = true ∧ e.agents.get number = some a := by
  rw [Option.ite_none_right_eq_some, agentInRange_iff]

/-- Settles O45: the mark of a message of no agent, the two refusals, and the record reported current. -/
theorem statusIsAnswered : Obligations.StatusIsAnswered := by
  intro s n m h t named
  have run {e : Engine} {d : Delivery} (work : s.engine.status m t = some (e, some d)) :
      exec .status s = .next (s.sending n e d) := by
    rw [exec_status h, work]
    exact State.handle_reply s n e d
  refine ⟨fun unknown => ?_, fun a named check => ?_⟩
  · exact run (Engine.status_unknownSender
      (Engine.senderOf_eq_none fun a range agent => unknown a (Engine.named_eq_some.2 ⟨range, agent⟩)))
  · obtain ⟨range, agent⟩ := Engine.named_eq_some.1 named
    have sender : s.engine.senderOf m.agent m.covered m.check = some a :=
      Engine.senderOf_eq_some.2 ⟨range, agent, check⟩
    exact ⟨fun bad => run (Engine.status_badField sender bad),
      fun ok absent => run (Engine.status_unknownKit sender ok absent),
      fun ok _ found => run (Engine.status_found sender ok found)⟩

end Sys2Proof.Machine

/-! # Work on a record keeps its due entry and its place in the notice list -/

namespace Sys2Proof.Machine

/-! ## What work does to the expiry index and to the notice list (R105, R107, R114) -/

/-- The clause of R107 for one record: it has a due entry exactly while it is ACTIVE or LAPSED. -/
def Record.keyed (r : Record) : Prop := r.due.isSome = true ↔ r.state = .active ∨ r.state = .lapsed

theorem Record.keyed_congr {r r' : Record} (state : r'.state = r.state) (due : r'.due = r.due) : r'.keyed ↔ r.keyed := by
  simp only [Record.keyed, state, due]

/-- The due entry that R104 calls for is there exactly while the record is ACTIVE or LAPSED, since such a record has a
paid-through. -/
theorem Record.keyed_of_dueFor {r : Record} {p : Plan} (h : r.wf) (due : r.due = r.dueFor p) : r.keyed := by
  obtain ⟨-, -, -, ⟨-, -, paid⟩, -⟩ := Record.wf_iff.1 h
  simp only [Record.keyed, due, Record.dueFor]
  cases hs : r.state
  case active =>
    obtain ⟨t, ht⟩ := Option.isSome_iff_exists.1 (paid (.inl hs))
    simp only [ht]
    split <;> simp
  case lapsed =>
    obtain ⟨t, ht⟩ := Option.isSome_iff_exists.1 (paid (.inr (.inl hs)))
    simp [ht]
  all_goals simp

/-- The index and the record's due entry are as they were, or the record has been re-keyed. -/
def Work.Rekeys (w w' : Work) : Prop :=
  (w'.engine.expiry = w.engine.expiry ∧ w'.record.due = w.record.due) ∨
    w'.engine.expiry = rekeyed w.engine.expiry w.record.kit w.slot w'.record.due

/-- The list and the record's flags are as they were, or notices have been raised: the flags are not empty, and a record
whose flags were has joined the list. -/
def Work.Raises (w w' : Work) : Prop :=
  (w'.engine.notices = w.engine.notices ∧ w'.record.notices = w.record.notices) ∨
    (w'.record.notices ≠ .clear ∧ w'.engine.notices =
      if w.record.notices = .clear then w.engine.notices ++ [w.record.kit] else w.engine.notices)

/-- Work on a record that stays in its slot and sound, and whose due entry and flags the index and the list follow. -/
structure Work.Indexed (w w' : Work) : Prop where
  slot      : w'.slot = w.slot
  kit       : w'.record.kit = w.record.kit
  accounts  : w'.engine.accounts = w.engine.accounts
  directory : w'.engine.directory = w.engine.directory
  wf        : w.record.wf → w'.record.wf
  expiry    : w.Rekeys w'
  notices   : w.Raises w'

/-- Such work that also leaves a due entry exactly when state calls for one. -/
structure Work.Keyed (w w' : Work) : Prop extends w.Indexed w' where
  keyed : w.record.wf → w.record.keyed → w'.record.keyed

theorem Work.Raises.trans {a b c : Work} (kit : b.record.kit = a.record.kit) (h : a.Raises b) (g : b.Raises c) :
    a.Raises c := by
  obtain ⟨list, flags⟩ | ⟨raised, list⟩ := h
  · rw [Work.Raises, list, flags, kit] at g
    exact g
  · obtain ⟨list', flags'⟩ | ⟨raised', list'⟩ := g
    · exact .inr ⟨flags' ▸ raised, list'.trans list⟩
    · exact .inr ⟨raised', by rw [list', if_neg raised, list]⟩

theorem Work.Rekeys.trans {a b c : Work} (kit : b.record.kit = a.record.kit) (slot : b.slot = a.slot) (h : a.Rekeys b)
    (g : b.Rekeys c) : a.Rekeys c := by
  obtain ⟨index, due⟩ | index := h
  · rw [Work.Rekeys, index, due, kit, slot] at g
    exact g
  · obtain ⟨index', due'⟩ | index' := g
    · exact .inr (by rw [index', index, due'])
    · exact .inr (by rw [index', index, kit, slot, rekeyed_rekeyed])

theorem Work.Indexed.trans {a b c : Work} (h : a.Indexed b) (g : b.Indexed c) : a.Indexed c where
  slot := g.slot.trans h.slot
  kit := g.kit.trans h.kit
  accounts := g.accounts.trans h.accounts
  directory := g.directory.trans h.directory
  wf := g.wf ∘ h.wf
  expiry := h.expiry.trans h.kit h.slot g.expiry
  notices := h.notices.trans h.kit g.notices

theorem Work.Keyed.trans {a b c : Work} (h : a.Keyed b) (g : b.Keyed c) : a.Keyed c :=
  ⟨h.toIndexed.trans g.toIndexed, fun wf keyed => g.keyed (h.wf wf) (h.keyed wf keyed)⟩

theorem Work.Leads.indexed {w w' : Work} (h : w.Leads w') (expiry : w.Rekeys w') (notices : w.Raises w') : w.Indexed w' :=
  ⟨h.slot, h.record.kit, h.accounts, h.directory, h.record.wf, expiry, notices⟩

/-- Work that leaves state, due entry and index as they were. -/
theorem Work.Leads.keyed {w w' : Work} (h : w.Leads w') (state : w'.record.state = w.record.state)
    (due : w'.record.due = w.record.due) (expiry : w'.engine.expiry = w.engine.expiry) (notices : w.Raises w') :
    w.Keyed w' :=
  ⟨h.indexed (.inl ⟨expiry, due⟩) notices, fun _ => (Record.keyed_congr state due).2⟩

theorem Work.Keyed.refl (w : Work) : w.Keyed w := (Work.Leads.refl w).keyed rfl rfl rfl (.inl ⟨rfl, rfl⟩)

/-- Whatever has become of the state, re-keying brings the due entry into agreement with it (R105). -/
theorem Work.Indexed.rekey {w w' : Work} (h : w.Indexed w') : w.Keyed w'.rekey where
  toIndexed := h.trans (w'.leads_rekey.indexed (.inr rfl) (.inl ⟨rfl, rfl⟩))
  keyed wf _ := Record.keyed_of_dueFor (p := w'.plan) (w'.leads_rekey.record.wf (h.wf wf)) rfl

/-! ### The pieces of work -/

theorem Work.raises_raise (w : Work) (n : Notice) : w.Raises (w.raise n) :=
  .inr ⟨NoticeFlags.raise_ne_clear _ _, rfl⟩

theorem Work.keyed_raise (w : Work) (n : Notice) : w.Keyed (w.raise n) :=
  (w.leads_raise n).keyed rfl rfl rfl (w.raises_raise n)

theorem Work.keyed_raiseIf (w : Work) (c : Bool) (n : Notice) : w.Keyed (w.raiseIf c n) := by
  cases c
  · exact .refl w
  · exact w.keyed_raise n

theorem Work.keyed_remind (w : Work) (t : Nat) : w.Keyed (w.remind t) := by
  refine (w.leads_remind t).keyed (by simp) (by simp) (by simp) ?_
  unfold Work.remind
  split
  · exact w.raises_raise .remind
  · exact .inl ⟨rfl, rfl⟩

theorem Work.keyed_creditNotices (w : Work) (before : RecordState) (t : Nat) : w.Keyed (w.creditNotices before t) :=
  ((w.keyed_raiseIf _ _).trans (Work.keyed_raiseIf _ _ _)).trans (Work.keyed_remind _ t)

theorem Work.indexed_recompute (w : Work) (t : Nat) : w.Indexed (w.recompute t) :=
  (w.leads_recompute t).indexed (.inl ⟨rfl, rfl⟩) (.inl ⟨rfl, rfl⟩)

/-- An OWNED record leaves the index and has no due entry (R10). -/
theorem Work.keyed_becomeOwned {w : Work} (h : 0 < w.plan.price) : w.Keyed w.becomeOwned where
  toIndexed := (Work.leads_becomeOwned h).indexed (.inr rfl) (.inr ⟨NoticeFlags.raise_ne_clear w.record.notices .owned, rfl⟩)
  keyed _ _ := by simp [Record.keyed, Work.becomeOwned]

/-- Fields of the record that hold neither state, due entry nor flags, written anew. -/
theorem Work.keyed_record (w : Work) {r : Record} (wf : w.record.wf → r.wf) (kit : r.kit = w.record.kit := by rfl)
    (state : r.state = w.record.state := by rfl) (due : r.due = w.record.due := by rfl)
    (notices : r.notices = w.record.notices := by rfl) : w.Keyed { w with record := r } :=
  ⟨⟨rfl, kit, rfl, rfl, wf, .inl ⟨rfl, due⟩, .inl ⟨rfl, notices⟩⟩, fun _ => (Record.keyed_congr state due).2⟩

/-! ### An entry settled -/

theorem Work.keyed_takeEntry (w : Work) (en : Entry) (f : Agent → Agent) : w.Keyed (w.takeEntry en f) :=
  (w.leads_takeEntry en f).keyed rfl rfl (by simp [Work.takeEntry]) (.inl ⟨by simp [Work.takeEntry], rfl⟩)

theorem Work.keyed_addResidue (w : Work) (remainder : Nat) : w.Keyed (w.addResidue remainder) := w.keyed_record id

theorem Work.keyed_confirmEntry (w : Work) (en : Entry) : w.Keyed (w.confirmEntry en).1 := by
  have taken := w.keyed_takeEntry en (fun a => a.settle en.amount)
  by_cases h : w.record.state = .owned
  · rw [Work.confirmEntry_owned h]
    exact taken
  by_cases hp : 0 < w.plan.price ∧ w.plan.price ≤ w.record.confirmed + en.amount
  · rw [Work.confirmEntry_completes h hp]
    exact (taken.trans (Work.keyed_addResidue _ _)).trans (Work.keyed_becomeOwned hp.1)
  · rw [Work.confirmEntry_credits h hp]
    exact (taken.trans (Work.keyed_addResidue _ en.remainder)).trans (Work.keyed_record _ id)

/-- Paid-through falls by the minutes of a reversed entry (R77 step 3). -/
def Work.payBack (w : Work) (minutes : Nat) : Work :=
  { w with record := { w.record with paid := w.record.paid.map (fun p => p - minutes) } }

theorem Work.keyed_payBack (w : Work) (minutes : Nat) : w.Keyed (w.payBack minutes) :=
  w.keyed_record fun wf => by simpa [Record.wf] using wf

theorem Work.reverseEntry_payBack {w : Work} (h : w.record.state ≠ .owned) (en : Entry) :
    let back := (w.takeEntry en (fun a => a.unsettle en.amount)).payBack en.minutes
    w.reverseEntry en = back.raiseIf back.record.runsBeyondPaid .overhang :=
  if_neg h

theorem Work.keyed_reverseEntry (w : Work) (en : Entry) : w.Keyed (w.reverseEntry en) := by
  have taken := w.keyed_takeEntry en (fun a => a.unsettle en.amount)
  by_cases h : w.record.state = .owned
  · have : w.reverseEntry en = w.takeEntry en (fun a => a.unsettle en.amount) := if_pos h
    rw [this]
    exact taken
  rw [Work.reverseEntry_payBack h]
  exact (taken.trans (Work.keyed_payBack _ en.minutes)).trans (Work.keyed_raiseIf _ _ _)

theorem Work.keyed_timedSettle (w : Work) (en : Entry) : w.Keyed (w.timedSettle en) := by
  unfold Work.timedSettle
  split
  · exact (w.keyed_confirmEntry en).trans (Work.keyed_raise _ _)
  · exact (w.keyed_reverseEntry en).trans (Work.keyed_raise _ _)

theorem Work.keyed_foldl {step : Work → Entry → Work} (hs : ∀ w en, Work.Keyed w (step w en)) (w : Work)
    (entries : List Entry) : w.Keyed (entries.foldl step w) := by
  induction entries generalizing w with
  | nil => exact .refl w
  | cons en rest ih => exact (hs w en).trans (ih _)

theorem Work.keyed_current (w : Work) (t : Nat) : w.Keyed (w.current t) :=
  (((Work.keyed_foldl Work.keyed_timedSettle w _).toIndexed.trans (Work.indexed_recompute _ t)).trans
    (Work.keyed_creditNotices _ _ t).toIndexed).rekey

/-! ### The requests and messages on a record that is current -/

/-- The one notice of a payment is its reminder (R9). -/
theorem Work.raises_credit (w : Work) (m t : Nat) : w.Raises (w.credit m t) :=
  (Work.keyed_remind (Work.recompute { w with record := { w.record with
    paid := some (w.record.base t + m)
    reminded := w.record.reminded && w.record.base t + m - t ≤ w.plan.lead } } t) t).notices

theorem Work.keyed_credit {w : Work} (h : w.record.state ≠ .owned) (m t : Nat) : w.Keyed (w.credit m t) := by
  obtain ⟨-, -, -, due, expiry, -⟩ := w.credit_spec m t
  have leads := Work.leads_credit h m t
  exact ⟨leads.indexed (.inr expiry) (w.raises_credit m t), fun wf _ => Record.keyed_of_dueFor (leads.record.wf wf) due⟩

theorem Work.keyed_suspended {w : Work} (ho : w.record.state ≠ .owned) (reason : Nat) : w.Keyed (w.suspended reason) where
  toIndexed := (Work.leads_suspended ho reason).indexed (.inr rfl) (.inl ⟨rfl, rfl⟩)
  keyed _ _ := by simp [Record.keyed, Work.suspended]

theorem Work.keyed_recordReport (w : Work) (m : CheckInMsg) (n : LineNo) (t : Nat) : w.Keyed (w.recordReport m n t) :=
  (w.leads_recordReport m n t).keyed (by simp [Work.recordReport, Work.raiseIf_eq])
    (by simp [Work.recordReport, Work.raiseIf_eq]) (by simp [Work.recordReport, Work.raiseIf_eq])
    (Work.keyed_raiseIf _ _ _).notices

theorem Work.keyed_compareHeld (w : Work) (held : Nat) : w.Keyed (w.compareHeld held) :=
  (w.leads_compareHeld held).keyed (by simp [Work.compareHeld, Work.raiseIf_eq])
    (by simp [Work.compareHeld, Work.raiseIf_eq]) (by simp [Work.compareHeld, Work.raiseIf_eq])
    (Work.keyed_raiseIf _ _ _).notices

/-- The tables that work ends with when the record it has made is put back. -/
def Work.EndsKeyed (w₀ : Work) (e : Engine) : Prop := ∃ w, w₀.Keyed w ∧ e = w.commit

theorem Work.Keyed.ends {w₀ w : Work} (h : w₀.Keyed w) : w₀.EndsKeyed w.commit := ⟨w, h, rfl⟩

section
variable {w₀ w : Work} (h : w₀.Keyed w)
include h

theorem Work.Keyed.suspend (reason : Nat) : w₀.EndsKeyed (w.suspend reason).1 := by
  by_cases hs : w.record.state = .suspended ∨ w.record.state = .owned
  · rw [Work.suspend_refused hs]
    exact h.ends
  · obtain ⟨hs, ho⟩ := not_or.1 hs
    rw [Work.suspend_accepted hs ho]
    exact (h.trans (Work.keyed_suspended ho reason)).ends

theorem Work.Keyed.resume (t : Nat) : w₀.EndsKeyed (w.resume t).1 := by
  by_cases hs : w.record.state = .suspended
  · rw [Work.resume_accepted hs]
    have resumed : w.Indexed (w.resumed t) := (Work.leads_resumed hs t).indexed (.inl ⟨rfl, rfl⟩) (.inl ⟨rfl, rfl⟩)
    exact ((h.toIndexed.trans resumed).trans (Work.keyed_remind _ t).toIndexed).rekey.ends
  · rw [Work.resume_refused hs]
    exact h.ends

theorem Work.Keyed.setKey (key : Word32) : w₀.EndsKeyed (w.setKey key).1 := by
  have checks := w.leads_badChecks (Nat.zero_le _)
  exact (h.trans (w.keyed_record (r := { w.record with key := key, badChecks := 0 }) checks.record.wf)).ends

theorem Work.Keyed.pay (calendar : CalendarState) (amount t : Nat) : w₀.EndsKeyed (w.pay calendar amount t).1 := by
  unfold Work.pay
  split
  · exact h.ends
  split
  · exact h.ends
  next ho =>
  split
  · exact h.ends
  split
  next complete =>
    simp only [Record.completesPrice, Bool.and_eq_true, decide_eq_true_eq] at complete
    exact (h.trans (Work.keyed_becomeOwned complete.1)).ends
  · split
    · exact h.ends
    next c _ =>
      have paid : w.Keyed (w.takePay c) := w.keyed_record id
      exact ((h.trans paid).trans (Work.keyed_credit (w := w.takePay c) ho c.minutes t)).ends

theorem Work.Keyed.confirm (reference : Nat) : w₀.EndsKeyed (w.confirm reference).1 := by
  unfold Work.confirm
  split
  · exact h.ends
  next en _ => exact (h.trans (w.keyed_confirmEntry en)).ends

theorem Work.Keyed.reverse (reference t : Nat) : w₀.EndsKeyed (w.reverse reference t).1 := by
  unfold Work.reverse
  split
  · exact h.ends
  next en _ =>
    have reversed := h.trans (w.keyed_reverseEntry en)
    by_cases ho : w.record.state = .owned
    · have : w.reverseNow en t = w.reverseEntry en := if_pos ho
      exact this ▸ reversed.ends
    · have : w.reverseNow en t = (((w.reverseEntry en).recompute t).creditNotices w.record.state t).rekey := if_neg ho
      exact this ▸ ((reversed.toIndexed.trans (Work.indexed_recompute _ t)).trans
        (Work.keyed_creditNotices _ _ t).toIndexed).rekey.ends

theorem Work.Keyed.badCheck : w₀.Keyed w.badCheck := by
  have counted := w.leads_badChecks (Nat.min_le_right (w.record.badChecks + 1) _)
  exact (h.trans (w.keyed_record counted.record.wf)).trans (Work.keyed_raiseIf _ _ _)

theorem Work.Keyed.goodCheck (m : CheckInMsg) (n : LineNo) (calendar : CalendarState) (t : Nat) :
    w₀.Keyed (w.goodCheck m n calendar t).1 := by
  have cleared := w.keyed_record (r := { w.record with badChecks := 0 }) (w.leads_badChecks (Nat.zero_le _)).record.wf
  exact ((((h.trans cleared).trans (Work.keyed_current _ t)).trans (Work.keyed_recordReport _ m n t)).trans
    (Work.keyed_compareHeld _ m.held)).trans (Work.keyed_record _ (Work.leads_offerAfter _ calendar m.held t).record.wf)

theorem Work.Keyed.topUp (m : TopUpMsg) (a : Agent) (calendar : CalendarState) (t : Nat) :
    w₀.Keyed (w.topUp m a calendar t).1 := by
  unfold Work.topUp
  split
  · exact h
  split
  · unfold Work.duplicate
    split <;> exact h
  split
  · exact h
  next ho =>
  split
  · exact h
  split
  · exact h
  split
  · exact h
  split
  · exact h
  next c _ =>
  dsimp only
  split
  · exact h
  · have added : w.Keyed (w.addEntry m a c t) :=
      ((w.same_addEntry m a c t).leads_of_eq rfl rfl rfl rfl).keyed rfl rfl (by simp [Work.addEntry])
        (.inl ⟨by simp [Work.addEntry], rfl⟩)
    exact (h.trans added).trans (Work.keyed_credit (w := w.addEntry m a c t) ho c.minutes t)

theorem Work.Keyed.settleOnPlan (t : Nat) : w₀.Keyed (w.settleOnPlan t) := by
  unfold Work.settleOnPlan
  split
  next reaches =>
    simp only [Bool.and_eq_true, decide_eq_true_eq] at reaches
    exact h.trans (Work.keyed_becomeOwned reaches.1)
  split
  · exact h
  · exact ((((h.toIndexed.trans (w.indexed_recompute t)).trans (Work.keyed_raiseIf _ _ _).toIndexed)).trans
      (Work.keyed_remind _ t).toIndexed).rekey

end

end Sys2Proof.Machine

/-! # Expiry index and notice list stay exact -/

namespace Sys2Proof.Machine

/-! ## What a command makes of records, directory, expiry index and notice list

Plans, pool, agents and settlement index aside, the list of `Engine.Change` is short: nothing changes, the tables are
emptied, a record is written into a free slot, worked on in its slot, or removed, or notices are taken. -/

/-- Records, directory, expiry index and notice list after a command. -/
inductive Engine.Rewrites (e : Engine) : Engine → Prop
  | same {e' : Engine} (accounts : e'.accounts = e.accounts) (directory : e'.directory = e.directory)
    (expiry : e'.expiry = e.expiry) (notices : e'.notices = e.notices) : e.Rewrites e'
  | cold : e.Rewrites .cold
  | enrolled {e' : Engine} {slot kit plan base : Nat} {key : Word32} (range : kitInRange kit = true)
    (number : base < Config.max32) (fresh : e.directory.get kit = none) (bound : slot < Config.slots)
    (free : e.accounts.get slot = none) (accounts : e'.accounts = e.accounts.put slot (.enrolled kit plan key base))
    (directory : e'.directory = e.directory.put kit slot) (expiry : e'.expiry = e.expiry)
    (notices : e'.notices = e.notices) : e.Rewrites e'
  | worked {kit : Nat} {w w' : Work} (found : e.find kit = .found w) (work : w.Keyed w') : e.Rewrites w'.commit
  | removed {kit : Nat} {w w' : Work} (found : e.find kit = .found w) (work : w.Keyed w') : e.Rewrites w'.remove
  | taken (count : Nat) : e.Rewrites (e.takeNotices count).1

theorem Engine.rewrites_self (e : Engine) : e.Rewrites e := .same rfl rfl rfl rfl

theorem Engine.Rewrites.of_eq {e e' : Engine} (h : e' = e) : e.Rewrites e' := h ▸ e.rewrites_self

/-- A request or message that found a record brings it to an end with its due entry and its place in the list kept. -/
theorem Work.Served.keyed {w : Work} {t : Nat} {e : Engine} (h : w.Served t e) : w.EndsKeyed e := by
  have current := w.keyed_current t
  cases h with
  | current => exact current.ends
  | suspend reason => exact current.suspend reason
  | resume => exact current.resume t
  | setKey key => exact current.setKey key
  | pay calendar amount => exact current.pay calendar amount t
  | confirm reference => exact current.confirm reference
  | reverse reference => exact current.reverse reference t
  | goodCheck m n calendar => exact ((Work.Keyed.refl w).goodCheck m n calendar t).ends
  | badCheck => exact (Work.Keyed.refl w).badCheck.ends
  | topUp m a calendar => exact (current.topUp m a calendar t).ends

/-- The record under its new plan, the counts of the plans moved (R20). -/
theorem Work.keyed_moved (w : Work) (plan : Nat) (new : Plan) : w.Keyed (w.moved plan new) := by
  have counted : (w.moved plan new).engine = { w.engine with plans := (w.moved plan new).engine.plans } := by
    rw [Work.moved, Engine.countPlan_plans, Engine.countPlan_plans]
  exact ⟨⟨rfl, rfl, by rw [counted], by rw [counted], id, .inl ⟨by rw [counted], rfl⟩, .inl ⟨by rw [counted], rfl⟩⟩,
    fun _ => id⟩

theorem Engine.rewrites_move {e : Engine} {kit : Nat} {w : Work} (found : e.find kit = .found w) (plan : Nat)
    (new : Plan) (t : Nat) : e.Rewrites ((w.current t).move plan new t).1 := by
  have current := w.keyed_current t
  obtain eq | ⟨-, -, eq⟩ := (w.current t).move_cases plan new t
  · exact eq ▸ .worked found current
  · exact eq ▸ .worked found ((current.trans (Work.keyed_moved _ plan new)).settleOnPlan t)

theorem Engine.rewrites_retire {e : Engine} {kit : Nat} {w : Work} (found : e.find kit = .found w) (force : Bool)
    (t : Nat) : e.Rewrites ((w.current t).retire force).1 := by
  have current := w.keyed_current t
  obtain eq | eq := (w.current t).retire_cases force
  · exact eq ▸ .worked found current
  · exact eq ▸ .removed found (current.trans (Work.keyed_foldl (fun w en => w.keyed_takeEntry en _) _ _))

theorem Engine.rewrites_enrolKit {e : Engine} (hw : Table.wf e.accounts) (kit plan : Nat) (key : Word32) (base : Nat) :
    e.Rewrites (e.enrolKit kit plan key base).1 := by
  obtain eq | ⟨slot, range, number, -, fresh, bound, free, eq⟩ := e.enrolKit_cases hw kit plan key base
  · exact .of_eq eq
  · rw [eq, Engine.countPlan_plans]
    exact .enrolled range number fresh bound free rfl rfl rfl rfl

theorem Engine.rewrites_onAgent {e : Engine} {agent : Nat} {good : Bool} {work : Agent → AgentWorked}
    (h : ∀ a, e.Rewrites (work a).1) : e.Rewrites (e.onAgent agent good work).1 := by
  unfold Engine.onAgent
  split
  · exact e.rewrites_self
  split
  · exact e.rewrites_self
  · exact h _

theorem Engine.AgentWork.rewrites {e e' : Engine} (h : e.AgentWork e') : e.Rewrites e' := by
  have put (agent : Nat) (a : Agent) : e.Rewrites (e.putAgent agent a) := .same rfl rfl rfl rfl
  cases h with
  | openAgent agent f =>
    unfold Engine.openAgent
    split
    · exact e.rewrites_self
    split
    · exact e.rewrites_self
    · exact put _ _
  | amendAgent agent changes f => exact Engine.rewrites_onAgent fun _ => put _ _
  | setBarred agent barred =>
    refine Engine.rewrites_onAgent fun a => ?_
    split
    · exact e.rewrites_self
    · exact put _ _
  | closeAgent agent =>
    refine Engine.rewrites_onAgent fun a => ?_
    split
    · exact e.rewrites_self
    · exact .same rfl rfl rfl rfl
  | clearWatermark agent => exact Engine.rewrites_onAgent fun _ => put _ _

theorem Engine.Change.rewrites {e e' : Engine} {t : Nat} (change : e.Change t e') (hw : Table.wf e.accounts) :
    e.Rewrites e' := by
  cases change with
  | same => exact e.rewrites_self
  | cold => exact .cold
  | agents work => exact work.rewrites
  | definePlan plan p =>
    obtain eq | ⟨-, -, eq⟩ := e.definePlan_cases plan p
    · exact .of_eq eq
    · exact eq ▸ .same rfl rfl rfl rfl
  | amendPlan plan changes p =>
    obtain eq | ⟨_, _, -, -, -, eq⟩ := e.amendPlan_cases plan changes p
    · exact .of_eq eq
    · exact eq ▸ .same rfl rfl rfl rfl
  | releasePlan plan =>
    obtain eq | ⟨-, -, -, eq⟩ := e.releasePlan_cases plan
    · exact .of_eq eq
    · exact eq ▸ .same rfl rfl rfl rfl
  | enrolKit kit plan key base => exact Engine.rewrites_enrolKit hw kit plan key base
  | takeNotices count => exact .taken count
  | served found work =>
    obtain ⟨w', keyed, rfl⟩ := work.keyed
    exact .worked found keyed
  | move found defined => exact Engine.rewrites_move found _ _ t
  | retire found force => exact Engine.rewrites_retire found force t

/-! ### The record worked on, and the record removed -/

section
variable {e : Engine} {kit : Nat} {w w' : Work} (found : e.find kit = .found w) (work : w.Indexed w')
include found work

theorem Engine.Directed.commit (h : e.Directed) : w'.commit.Directed := by
  obtain ⟨rfl, -, hr, -⟩ := Engine.find_spec found
  exact h.put hr work.kit (by rw [Work.commit_accounts, work.accounts, work.slot]) work.directory

/-- Tables without the record that was worked on. -/
theorem Work.Indexed.remove_spec : w'.remove.accounts = e.accounts.erase w.slot ∧
    w'.remove.directory = e.directory.erase w.record.kit ∧
    w'.remove.expiry = dueRemove w.record.kit e.expiry ∧
    w'.remove.notices = e.notices.filter (fun k => !(k == w.record.kit)) := by
  obtain ⟨rfl, -⟩ := Engine.find_spec found
  have expiry : dueRemove w.record.kit w'.engine.expiry = dueRemove w.record.kit w.engine.expiry := by
    obtain ⟨eq, -⟩ | eq := work.expiry
    · rw [eq]
    · rw [eq]
      exact rekeyed_rekeyed _ _ w.slot _ none
  have notices : w'.engine.notices.filter (fun k => !(k == w.record.kit)) =
      w.engine.notices.filter (fun k => !(k == w.record.kit)) := by
    obtain ⟨eq, -⟩ | ⟨-, eq⟩ := work.notices
    · rw [eq]
    · rw [eq]
      split <;> simp
  rw [Work.remove, Engine.countPlan_plans]
  dsimp only
  rw [work.accounts, work.slot, work.directory, work.kit, expiry, notices]
  exact ⟨rfl, rfl, rfl, rfl⟩

theorem Engine.Directed.remove (h : e.Directed) : w'.remove.Directed := by
  obtain ⟨accounts, directory, -, -⟩ := work.remove_spec found
  obtain ⟨-, -, hr, -⟩ := Engine.find_spec found
  exact h.erase hr accounts directory

end

/-! ### Notices taken (R117) -/

/-- The record with its flags emptied when its kit is one of those taken. -/
def Record.emptied (kits : List Nat) (r : Record) : Record := if r.kit ∈ kits then { r with notices := .clear } else r

section
variable (kits : List Nat) (r : Record)

@[simp] theorem Record.emptied_kit : (r.emptied kits).kit = r.kit := by unfold Record.emptied; split <;> rfl
@[simp] theorem Record.emptied_state : (r.emptied kits).state = r.state := by unfold Record.emptied; split <;> rfl
@[simp] theorem Record.emptied_due : (r.emptied kits).due = r.due := by unfold Record.emptied; split <;> rfl

@[simp] theorem Record.emptied_notices :
    (r.emptied kits).notices = if r.kit ∈ kits then .clear else r.notices := by
  unfold Record.emptied; split <;> rfl

@[simp] theorem Record.emptied_wf : (r.emptied kits).wf ↔ r.wf := by unfold Record.emptied; split <;> rfl

omit kits r in
theorem Record.emptied_nil : Record.emptied [] = id := funext fun _ => if_neg List.not_mem_nil

theorem Record.emptied_emptied (kit : Nat) : (r.emptied [kit]).emptied kits = r.emptied (kit :: kits) := by
  unfold Record.emptied
  by_cases first : r.kit = kit <;> by_cases rest : r.kit ∈ kits <;> simp [first, rest]

end

/-- The tables `e'` are those of `e` with the flags of some kits' records emptied. -/
structure Engine.Emptied (e : Engine) (kits : List Nat) (e' : Engine) : Prop where
  rest     : e' = { e with accounts := e'.accounts }
  accounts : Table.wf e'.accounts
  get (slot : Nat) : e'.accounts.get slot = (e.accounts.get slot).map (Record.emptied kits)

theorem Engine.Emptied.record {e e' : Engine} {kits : List Nat} (h : e.Emptied kits e') {slot : Nat} {r' : Record}
    (hr : e'.accounts.get slot = some r') : ∃ r, e.accounts.get slot = some r ∧ r' = r.emptied kits := by
  rw [h.get] at hr
  obtain ⟨r, before, eq⟩ := Option.map_eq_some_iff.1 hr
  exact ⟨r, before, eq.symm⟩

theorem Engine.Emptied.directed {e e' : Engine} {kits : List Nat} (h : e.Emptied kits e') (hd : e.Directed) :
    e'.Directed where
  accounts := h.accounts
  directory := by rw [h.rest]; exact hd.directory
  record g := by
    obtain ⟨r, hr, rfl⟩ := h.record g
    rw [h.rest, Record.emptied_kit]
    exact hd.record hr
  listed g := by
    rw [h.rest] at g
    obtain ⟨r, hr, hk⟩ := hd.listed g
    exact ⟨r.emptied kits, by rw [h.get, hr]; rfl, by rwa [Record.emptied_kit]⟩

theorem Engine.Directed.emptied_clearNotices {e : Engine} (h : e.Directed) (kit : Nat) :
    e.Emptied [kit] (e.clearNotices kit) := by
  unfold Engine.clearNotices Engine.recordOf
  cases hd : e.directory.get kit with
  | none =>
    refine ⟨rfl, h.accounts, fun slot => ?_⟩
    cases hr : e.accounts.get slot with
    | none => rfl
    | some r =>
      have : r.kit ≠ kit := by rintro rfl; simp [(h.record hr).2.2] at hd
      simp [Record.emptied, this]
  | some place =>
    obtain ⟨r, hr, hk⟩ := h.listed hd
    simp only [hr, Option.map_some]
    refine ⟨rfl, Table.wf_put _ _ h.accounts, fun slot => ?_⟩
    rw [Table.get_put]
    split
    next same => simp [same, hr, Record.emptied, hk]
    next other =>
      cases hr' : e.accounts.get slot with
      | none => rfl
      | some r' =>
        have : r'.kit ≠ kit := fun same => other (h.slot_unique hr' hr (same.trans hk.symm))
        simp [Record.emptied, this]

theorem Engine.Directed.emptied_foldl {e : Engine} (h : e.Directed) (kits : List Nat) :
    e.Emptied kits (kits.foldl Engine.clearNotices e) := by
  induction kits generalizing e with
  | nil => exact ⟨rfl, h.accounts, fun slot => by simp [Record.emptied_nil]⟩
  | cons kit rest ih =>
    have first := h.emptied_clearNotices kit
    have others := ih (first.directed h)
    refine ⟨?_, others.accounts, fun slot => ?_⟩
    · rw [List.foldl_cons, others.rest, first.rest]
    · rw [List.foldl_cons, others.get, first.get, Option.map_map]
      exact congrArg (fun f => (e.accounts.get slot).map f) (funext fun r => r.emptied_emptied rest kit)

/-- What TAKE NOTICES leaves of the tables (R117). -/
theorem Engine.takeNotices_cases (e : Engine) (count : Nat) :
    (e.takeNotices count).1 = e ∨ (e.takeNotices count).1 =
      { (e.notices.take count).foldl Engine.clearNotices e with notices := e.notices.drop count } := by
  unfold Engine.takeNotices
  split
  · exact .inl rfl
  · exact .inr rfl

/-! ## The order of the expiry index (R107) -/

/-- The expiry index in its order. -/
def dueOrdered (index : List DueItem) : Prop := index.Pairwise (fun a b => a.before b = true)

theorem DueItem.before_iff {a b : DueItem} :
    a.before b = true ↔ a.instant < b.instant ∨ a.instant = b.instant ∧ a.kit < b.kit := by
  simp [DueItem.before]

theorem DueItem.before_trans {a b c : DueItem} (h : a.before b = true) (g : b.before c = true) : a.before c = true := by
  rw [DueItem.before_iff] at *
  omega

/-- Of two kits' entries one stands before the other. -/
theorem DueItem.before_of_not {a b : DueItem} (h : ¬a.before b = true) (kit : b.kit ≠ a.kit) : b.before a = true := by
  rw [DueItem.before_iff] at *
  omega

theorem dueOrdered_dueRemove {index : List DueItem} (h : dueOrdered index) (kit : Nat) :
    dueOrdered (dueRemove kit index) :=
  h.sublist List.filter_sublist

theorem dueOrdered_dueInsert {d : DueItem} {index : List DueItem} (h : dueOrdered index)
    (other : ∀ e ∈ index, e.kit ≠ d.kit) : dueOrdered (dueInsert d index) := by
  induction index with
  | nil => exact List.pairwise_singleton _ _
  | cons e rest ih =>
    obtain ⟨he, hrest⟩ := List.pairwise_cons.1 h
    unfold dueInsert
    split
    next first =>
      refine List.pairwise_cons.2 ⟨fun x hx => ?_, h⟩
      obtain rfl | hx := List.mem_cons.1 hx
      · exact first
      · exact DueItem.before_trans first (he x hx)
    next later =>
      refine List.pairwise_cons.2 ⟨fun x hx => ?_, ih hrest fun x hx => other x (List.mem_cons_of_mem _ hx)⟩
      obtain rfl | hx := mem_dueInsert.1 hx
      · exact DueItem.before_of_not later (other e List.mem_cons_self)
      · exact he x hx

theorem dueOrdered_rekeyed {index : List DueItem} (h : dueOrdered index) (kit slot : Nat)
    (due : Option (DueKind × Nat)) : dueOrdered (rekeyed index kit slot due) := by
  cases due with
  | none => exact dueOrdered_dueRemove h kit
  | some x => exact dueOrdered_dueInsert (dueOrdered_dueRemove h kit) fun _ he => (mem_dueRemove.1 he).2

/-! ## The expiry index, read by number (R107) -/

theorem Record.dueItem_eq_some {r : Record} {slot : Nat} {d : DueItem} :
    r.dueItem slot = some d ↔ r.due = some (d.kind, d.instant) ∧ r.kit = d.kit ∧ slot = d.slot := by
  obtain ⟨instant, kit, slot', kind⟩ := d
  cases hd : r.due with
  | none => simp [Record.dueItem, hd]
  | some x =>
    obtain ⟨kind', instant'⟩ := x
    simp only [Record.dueItem, hd, Option.map_some, Option.some.injEq, DueItem.mk.injEq, Prod.mk.injEq]
    tauto

/-- `Engine.expiryWf`, said of what the tables hold under each number. -/
structure Engine.Timed (e : Engine) : Prop where
  directed : e.Directed
  sound {slot : Nat} {r : Record} (h : e.accounts.get slot = some r) : r.wf
  ordered  : dueOrdered e.expiry
  due {d : DueItem} : d ∈ e.expiry ↔ ∃ r, e.accounts.get d.slot = some r ∧ r.dueItem d.slot = some d
  keyed {slot : Nat} {r : Record} (h : e.accounts.get slot = some r) : r.keyed

theorem Engine.expiryWf_iff {e : Engine} : e.expiryWf ↔ e.Timed := by
  constructor
  · rintro ⟨directory, sound, ordered, listed, due, keyed⟩
    have directed := Engine.directoryWf_iff.1 directory
    rw [Engine.recordsWf, Table.forall_mem_iff directed.accounts] at sound
    rw [Table.forall_mem_iff directed.accounts] at due keyed
    exact
      { directed, ordered
        sound := sound _ _
        due := ⟨fun h => Option.bind_eq_some_iff.1 (listed _ h), fun ⟨r, hr, h⟩ => due _ r hr _ h⟩
        keyed := keyed _ _ }
  · intro h
    have accounts := h.directed.accounts
    refine ⟨Engine.directoryWf_iff.2 h.directed, ?_, h.ordered, fun d hd => Option.bind_eq_some_iff.2 (h.due.1 hd), ?_, ?_⟩
    · exact (Table.forall_mem_iff accounts).2 fun _ _ => h.sound
    · refine (Table.forall_mem_iff accounts).2 fun slot r hr d hd => h.due.2 ⟨r, ?_, ?_⟩
      all_goals obtain ⟨-, -, rfl⟩ := Record.dueItem_eq_some.1 hd
      · exact hr
      · exact hd
    · exact (Table.forall_mem_iff accounts).2 fun _ _ => h.keyed

section
variable {e : Engine} (h : e.Timed)
include h

theorem Engine.Timed.congr {e' : Engine} (accounts : e'.accounts = e.accounts) (directory : e'.directory = e.directory)
    (expiry : e'.expiry = e.expiry) : e'.Timed where
  directed := h.directed.congr accounts directory
  sound g := h.sound (accounts ▸ g)
  ordered := expiry ▸ h.ordered
  due := by rw [accounts, expiry]; exact h.due
  keyed g := h.keyed (accounts ▸ g)

/-- The index as a record's due entry stands in it: its own entry, and those of the other kits. -/
theorem Engine.Timed.mem_iff {slot : Nat} {r : Record} (hr : e.accounts.get slot = some r) {d : DueItem} :
    d ∈ e.expiry ↔ (d ∈ e.expiry ∧ d.kit ≠ r.kit) ∨ r.dueItem slot = some d := by
  refine ⟨fun hd => ?_, fun hd => hd.elim And.left fun own => h.due.2 ⟨r, ?_, ?_⟩⟩
  · obtain ⟨r', hr', item⟩ := h.due.1 hd
    by_cases same : d.kit = r.kit
    · obtain ⟨-, kit, -⟩ := Record.dueItem_eq_some.1 item
      obtain rfl := h.directed.slot_unique hr' hr (kit.trans same)
      obtain rfl := Option.some.inj (hr'.symm.trans hr)
      exact .inr item
    · exact .inl ⟨hd, same⟩
  all_goals obtain ⟨-, -, rfl⟩ := Record.dueItem_eq_some.1 own
  · exact hr
  · exact own

/-- An entry of another kit is the due entry of a record in another slot. -/
theorem Engine.Timed.mem_other_iff {slot : Nat} {r : Record} (hr : e.accounts.get slot = some r) {d : DueItem} :
    d ∈ e.expiry ∧ d.kit ≠ r.kit ↔
      d.slot ≠ slot ∧ ∃ r', e.accounts.get d.slot = some r' ∧ r'.dueItem d.slot = some d := by
  constructor
  · rintro ⟨hd, other⟩
    obtain ⟨r', hr', item⟩ := h.due.1 hd
    obtain ⟨-, kit, -⟩ := Record.dueItem_eq_some.1 item
    refine ⟨fun same => other ?_, r', hr', item⟩
    obtain rfl := Option.some.inj (hr.symm.trans (same ▸ hr'))
    exact kit.symm
  · rintro ⟨other, r', hr', item⟩
    obtain ⟨-, kit, -⟩ := Record.dueItem_eq_some.1 item
    exact ⟨h.due.2 ⟨r', hr', item⟩, fun same => other (h.directed.slot_unique hr' hr (kit.trans same))⟩

/-- The record worked on put back into its slot, its due entry in the index (R105). -/
theorem Engine.Timed.commit {kit : Nat} {w w' : Work} (found : e.find kit = .found w) (work : w.Keyed w') :
    w'.commit.Timed := by
  have directed := h.directed.commit found work.toIndexed
  obtain ⟨rfl, -, hr, -⟩ := Engine.find_spec found
  have accounts : w'.commit.accounts = w.engine.accounts.put w.slot w'.record := by
    rw [Work.commit_accounts, work.accounts, work.slot]
  have item (d : DueItem) : d ∈ w'.commit.expiry ↔
      (d ∈ w.engine.expiry ∧ d.kit ≠ w.record.kit) ∨ w'.record.dueItem w.slot = some d := by
    obtain ⟨index, due⟩ | index := work.expiry
    · have : w'.record.dueItem w.slot = w.record.dueItem w.slot := by rw [Record.dueItem, Record.dueItem, due, work.kit]
      rw [Work.commit_expiry, index, this]
      exact h.mem_iff hr
    · rw [Work.commit_expiry, index, mem_rekeyed, Record.dueItem, work.kit]
  exact
    { directed
      ordered := by
        rw [Work.commit_expiry]
        obtain ⟨index, -⟩ | index := work.expiry
        · exact index ▸ h.ordered
        · exact index ▸ dueOrdered_rekeyed h.ordered _ _ _
      sound := fun {i r₁} g => by
        rw [accounts, Table.get_put] at g
        split at g
        · cases g
          exact work.wf (h.sound hr)
        · exact h.sound g
      due := fun {d} => by
        rw [item, h.mem_other_iff hr, accounts, Table.get_put]
        by_cases same : d.slot = w.slot
        · simp [same]
        · have : w'.record.dueItem w.slot ≠ some d := fun g => same (Record.dueItem_eq_some.1 g).2.2.symm
          simp [same, this]
      keyed := fun {i r₁} g => by
        rw [accounts, Table.get_put] at g
        split at g
        · cases g
          exact work.keyed (h.sound hr) (h.keyed hr)
        · exact h.keyed g }

/-- The record removed, its due entry with it (R21). -/
theorem Engine.Timed.remove {kit : Nat} {w w' : Work} (found : e.find kit = .found w) (work : w.Keyed w') :
    w'.remove.Timed := by
  obtain ⟨accounts, -, expiry, -⟩ := work.remove_spec found
  have directed := h.directed.remove found work.toIndexed
  obtain ⟨-, -, hr, -⟩ := Engine.find_spec found
  have kept {i : Nat} {r : Record} (g : w'.remove.accounts.get i = some r) : e.accounts.get i = some r := by
    rw [accounts, Table.get_erase] at g
    split at g
    · cases g
    · exact g
  exact
    { directed
      ordered := expiry ▸ dueOrdered_dueRemove h.ordered _
      sound := fun g => h.sound (kept g)
      due := fun {d} => by
        rw [expiry, mem_dueRemove, h.mem_other_iff hr, accounts, Table.get_erase]
        by_cases same : d.slot = w.slot <;> simp [same]
      keyed := fun g => h.keyed (kept g) }

/-- A record without a due entry written for a new kit (R14). -/
theorem Engine.Timed.enrol {e' : Engine} {slot kit plan base : Nat} {key : Word32} (range : kitInRange kit = true)
    (number : base < Config.max32) (fresh : e.directory.get kit = none) (bound : slot < Config.slots)
    (free : e.accounts.get slot = none) (accounts : e'.accounts = e.accounts.put slot (.enrolled kit plan key base))
    (directory : e'.directory = e.directory.put kit slot) (expiry : e'.expiry = e.expiry) : e'.Timed where
  directed := h.directed.enrol range fresh bound free accounts directory
  ordered := expiry ▸ h.ordered
  sound g := by
    rw [accounts, Table.get_put] at g
    split at g
    · cases g
      simp [Record.wf, Record.enrolled, number.le]
    · exact h.sound g
  due {d} := by
    rw [expiry, h.due, accounts, Table.get_put]
    by_cases same : d.slot = slot
    · simp [same, free, Record.dueItem, Record.enrolled]
    · simp [same]
  keyed g := by
    rw [accounts, Table.get_put] at g
    split at g
    · cases g
      simp [Record.keyed, Record.enrolled]
    · exact h.keyed g

theorem Engine.Timed.emptied {e' : Engine} {kits : List Nat} (g : e.Emptied kits e') : e'.Timed where
  directed := g.directed h.directed
  ordered := by rw [g.rest]; exact h.ordered
  sound hr := by
    obtain ⟨r, before, rfl⟩ := g.record hr
    exact (Record.emptied_wf kits r).2 (h.sound before)
  due {d} := by
    have item (r : Record) : (r.emptied kits).dueItem d.slot = r.dueItem d.slot := by simp [Record.dueItem]
    rw [g.get, g.rest, h.due]
    cases e.accounts.get d.slot <;> simp [item]
  keyed hr := by
    obtain ⟨r, before, rfl⟩ := g.record hr
    simpa [Record.keyed] using h.keyed before

theorem Engine.Timed.takeNotices (count : Nat) : (e.takeNotices count).1.Timed := by
  obtain eq | eq := e.takeNotices_cases count
  · rwa [eq]
  · rw [eq]
    exact (h.emptied (h.directed.emptied_foldl _)).congr rfl rfl rfl

end

theorem Engine.Rewrites.timed {e e' : Engine} (change : e.Rewrites e') (h : e.Timed) : e'.Timed := by
  cases change with
  | same accounts directory expiry => exact h.congr accounts directory expiry
  | cold =>
    obtain ⟨-, -, expiry, -⟩ := Engine.invariants_cold
    exact Engine.expiryWf_iff.1 expiry
  | enrolled range number fresh bound free accounts directory expiry =>
    exact h.enrol range number fresh bound free accounts directory expiry
  | worked found work => exact h.commit found work
  | removed found work => exact h.remove found work
  | taken count => exact h.takeNotices count

/-- Settles O54: each change that a command can make of the records keeps the expiry index in order and exact. -/
theorem expiryIndexStaysExact : Obligations.ExpiryIndexStaysExact := by
  intro c s s' expiry h
  have timed := Engine.expiryWf_iff.1 expiry
  exact Engine.expiryWf_iff.2 (((exec_change h).rewrites timed.directed.accounts).timed timed)

/-! ## The notice list, read by number (R114) -/

/-- `Engine.noticesWf`, said of what the tables hold under each number. -/
structure Engine.Noticed (e : Engine) : Prop where
  directed : e.Directed
  once     : e.notices.Nodup
  flagged {slot : Nat} {r : Record} (h : e.accounts.get slot = some r) : r.kit ∈ e.notices ↔ r.notices ≠ .clear
  known {kit : Nat} (h : kit ∈ e.notices) : (e.directory.get kit).isSome = true

theorem Engine.noticesWf_iff {e : Engine} : e.noticesWf ↔ e.Noticed := by
  constructor
  · rintro ⟨directory, once, flagged, known⟩
    have directed := Engine.directoryWf_iff.1 directory
    rw [Table.forall_mem_iff directed.accounts] at flagged
    exact ⟨directed, once, flagged _ _, known _⟩
  · intro h
    exact ⟨Engine.directoryWf_iff.2 h.directed, h.once,
      (Table.forall_mem_iff h.directed.accounts).2 fun _ _ => h.flagged, fun _ => h.known⟩

section
variable {e : Engine} (h : e.Noticed)
include h

theorem Engine.Noticed.congr {e' : Engine} (accounts : e'.accounts = e.accounts)
    (directory : e'.directory = e.directory) (notices : e'.notices = e.notices) : e'.Noticed where
  directed := h.directed.congr accounts directory
  once := notices ▸ h.once
  flagged g := notices ▸ h.flagged (accounts ▸ g)
  known g := directory ▸ h.known (notices ▸ g)

/-- The list while a record is worked on: each kit once, the record's own when it has flags, the others as before. -/
theorem Engine.Noticed.raises {w w' : Work} (eq : w.engine = e) (hr : e.accounts.get w.slot = some w.record)
    (work : w.Raises w') : w'.engine.notices.Nodup ∧
      (w.record.kit ∈ w'.engine.notices ↔ w'.record.notices ≠ .clear) ∧
      ∀ kit, kit ≠ w.record.kit → (kit ∈ w'.engine.notices ↔ kit ∈ e.notices) := by
  subst eq
  obtain ⟨list, flags⟩ | ⟨raised, list⟩ := work
  · rw [list, flags]
    exact ⟨h.once, h.flagged hr, fun _ _ => Iff.rfl⟩
  rw [list]
  split
  next empty =>
    have fresh : w.record.kit ∉ w.engine.notices := fun listed => (h.flagged hr).1 listed empty
    refine ⟨h.once.append (List.nodup_singleton _) (by simpa using fresh), by simp [raised], fun kit other => ?_⟩
    simp [other]
  next flagged =>
    exact ⟨h.once, ⟨fun _ => raised, fun _ => (h.flagged hr).2 flagged⟩, fun _ _ => Iff.rfl⟩

/-- The record worked on put back into its slot, in the list exactly when it has flags (R114). -/
theorem Engine.Noticed.commit {kit : Nat} {w w' : Work} (found : e.find kit = .found w) (work : w.Indexed w') :
    w'.commit.Noticed := by
  have directed := h.directed.commit found work
  obtain ⟨eq, -, hr, -⟩ := Engine.find_spec found
  obtain ⟨once, own, others⟩ := h.raises eq hr work.notices
  subst eq
  exact
    { directed, once
      flagged := fun {i r₁} g => by
        rw [Work.commit_accounts, work.accounts, work.slot, Table.get_put] at g
        split at g
        · cases g
          rw [work.kit]
          exact own
        next other => exact (others _ fun same => other (h.directed.slot_unique g hr same)).trans (h.flagged g)
      known := fun {k} listed => by
        rw [Work.commit_directory, work.directory]
        by_cases same : k = w.record.kit
        · rw [same, (h.directed.record hr).2.2]
          rfl
        · exact h.known ((others k same).1 listed) }

/-- The record removed, and out of the list (R21). -/
theorem Engine.Noticed.remove {kit : Nat} {w w' : Work} (found : e.find kit = .found w) (work : w.Indexed w') :
    w'.remove.Noticed := by
  obtain ⟨accounts, directory, -, notices⟩ := work.remove_spec found
  obtain ⟨-, -, hr, -⟩ := Engine.find_spec found
  exact
    { directed := h.directed.remove found work
      once := notices ▸ h.once.sublist List.filter_sublist
      flagged := fun {i r} g => by
        rw [accounts, Table.get_erase] at g
        split at g
        · cases g
        next other =>
          have : r.kit ≠ w.record.kit := fun same => other (h.directed.slot_unique g hr same)
          simpa [notices, this] using h.flagged g
      known := fun {k} listed => by
        simp only [notices, List.mem_filter, Bool.not_eq_true', beq_eq_false_iff_ne] at listed
        rw [directory, Table.get_erase, if_neg listed.2]
        exact h.known listed.1 }

/-- A record without flags written for a new kit (R14). -/
theorem Engine.Noticed.enrol {e' : Engine} {slot kit plan base : Nat} {key : Word32} (range : kitInRange kit = true)
    (fresh : e.directory.get kit = none) (bound : slot < Config.slots) (free : e.accounts.get slot = none)
    (accounts : e'.accounts = e.accounts.put slot (.enrolled kit plan key base))
    (directory : e'.directory = e.directory.put kit slot) (notices : e'.notices = e.notices) : e'.Noticed where
  directed := h.directed.enrol range fresh bound free accounts directory
  once := notices ▸ h.once
  flagged {i r} g := by
    rw [accounts, Table.get_put] at g
    rw [notices]
    split at g
    · cases g
      have : kit ∉ e.notices := fun listed => by simpa [fresh] using h.known listed
      simp [Record.enrolled, this]
    · exact h.flagged g
  known {k} listed := by
    rw [directory, Table.get_put]
    split
    · rfl
    · exact h.known (notices ▸ listed)

/-- The kits taken leave the list, and their records' flags are emptied (R117). -/
theorem Engine.Noticed.takeNotices (count : Nat) : (e.takeNotices count).1.Noticed := by
  obtain eq | eq := e.takeNotices_cases count
  · rwa [eq]
  rw [eq]
  have emptied := h.directed.emptied_foldl (e.notices.take count)
  exact
    { directed := (emptied.directed h.directed).congr rfl rfl
      once := h.once.sublist (List.drop_sublist _ _)
      flagged := fun g => by
        obtain ⟨r, before, rfl⟩ := emptied.record g
        have flagged := h.flagged before
        rw [← List.take_append_drop count e.notices, List.mem_append] at flagged
        rw [Record.emptied_kit, Record.emptied_notices]
        by_cases taken : r.kit ∈ e.notices.take count
        · have left : r.kit ∉ e.notices.drop count := List.disjoint_take_drop h.once (le_refl count) taken
          simp [taken, left]
        · simpa [taken] using flagged
      known := fun listed => by
        dsimp only
        rw [emptied.rest]
        exact h.known (List.mem_of_mem_drop listed) }

end

theorem Engine.Rewrites.noticed {e e' : Engine} (change : e.Rewrites e') (h : e.Noticed) : e'.Noticed := by
  cases change with
  | same accounts directory _ notices => exact h.congr accounts directory notices
  | cold =>
    obtain ⟨-, -, -, notices, -⟩ := Engine.invariants_cold
    exact Engine.noticesWf_iff.1 notices
  | enrolled range _ fresh bound free accounts directory _ notices =>
    exact h.enrol range fresh bound free accounts directory notices
  | worked found work => exact h.commit found work.toIndexed
  | removed found work => exact h.remove found work.toIndexed
  | taken count => exact h.takeNotices count

/-- Settles O55: each change that a command can make of the records keeps the notice list exact. -/
theorem noticeListStaysExact : Obligations.NoticeListStaysExact := by
  intro c s s' notices h
  have noticed := Engine.noticesWf_iff.1 notices
  exact Engine.noticesWf_iff.2 (((exec_change h).rewrites noticed.directed.accounts).noticed noticed)

end Sys2Proof.Machine

/-! # Requests on notices, due entries and table counts, and CHECK-IN -/

namespace Sys2Proof.Machine

/-! ## The record of a kit in the directory (R2, R3) -/

theorem Engine.Directed.recordOf {e : Engine} (h : e.Directed) {slot : Nat} {r : Record}
    (hr : e.accounts.get slot = some r) : e.recordOf r.kit = some (slot, r) := by
  simp only [Engine.recordOf, (h.record hr).2.2, hr, Option.map_some]

/-- What `Engine.recordOf` finds for a kit is a record of that kit. -/
theorem Engine.Directed.recordOf_kit {e : Engine} (h : e.Directed) {kit : Nat} {r : Nat × Record}
    (found : e.recordOf kit = some r) : r.2.kit = kit := by
  unfold Engine.recordOf at found
  split at found
  · cases found
  next slot listed =>
    obtain ⟨r', hr', rfl⟩ := h.listed listed
    rw [hr'] at found
    obtain rfl := Option.some.inj found
    rfl

theorem Engine.Noticed.recordOf_ne_none {e : Engine} (h : e.Noticed) {kit : Nat} (listed : kit ∈ e.notices) :
    e.recordOf kit ≠ none := by
  obtain ⟨slot, hs⟩ := Option.isSome_iff_exists.1 (h.known listed)
  obtain ⟨r, hr, rfl⟩ := h.directed.listed hs
  simp [h.directed.recordOf hr]

theorem Engine.Timed.recordOf_ne_none {e : Engine} (h : e.Timed) {d : DueItem} (due : d ∈ e.expiry) :
    e.recordOf d.kit ≠ none := by
  obtain ⟨r, hr, item⟩ := h.due.1 due
  obtain ⟨-, kit, -⟩ := Record.dueItem_eq_some.1 item
  simp [← kit, h.directed.recordOf hr]

/-! ## TAKE NOTICES (R116, R117) -/

section
variable {e : Engine} {count : Nat}

theorem Engine.takeNotices_badField (h : ¬(1 ≤ count ∧ count ≤ 8)) : e.takeNotices count = (e, .badField, []) :=
  if_pos (by rw [Bool.eq_false_iff.2 (mt within_iff.1 h)]; rfl)

theorem Engine.takeNotices_done (h : 1 ≤ count ∧ count ≤ 8) : e.takeNotices count =
    ({ (e.notices.take count).foldl Engine.clearNotices e with notices := e.notices.drop count }, .done,
      [pairField (e.notices.drop count).length, byteField (e.notices.take count).length]
        ++ (e.notices.take count).flatMap e.noticeReport) :=
  if_neg (by simp [within_iff.2 h])

/-- What is reported of a kit taken, its record's kit being the kit. -/
theorem Engine.Directed.noticeReport {e : Engine} (h : e.Directed) (kit : Nat) :
    e.noticeReport kit = ((e.recordOf kit).map (fun r => [wordField kit, pairField r.2.notices.bits,
      stateField (some r.2.state), minuteField r.2.paid])).getD [] := by
  unfold Engine.noticeReport
  cases found : e.recordOf kit with
  | none => rfl
  | some r =>
    obtain rfl := h.recordOf_kit found
    rfl

/-- With the list exact no listed kit lacks a record, and the request is answered. -/
theorem exec_takeNotices {s : State} (h : s.grantedRequest = some (.takeNotices count)) (noticed : s.engine.Noticed) :
    exec .takeNotices s = .next (s.responded (s.engine.takeNotices count).1
      (noticeResponse (.takeNotices count) (s.engine.takeNotices count).2.1 s.instant (s.engine.takeNotices count).2.2)) := by
  have present : (s.engine.notices.take count).any (fun k => (s.engine.recordOf k).isNone) = false := by
    refine List.any_eq_false.2 fun k hk => ?_
    simpa using noticed.recordOf_ne_none (List.mem_of_mem_take hk)
  simp only [exec, execTakeNotices, h, present, Bool.and_false, Bool.false_eq_true, if_false]
  exact State.answer_granted h _ _

end

/-- Settles O27: the count is checked, and the kits at the front of the list are reported, leave it and have their flags
emptied. -/
theorem takeNoticesCollects : Obligations.TakeNoticesCollects := by
  intro s count h notices
  have noticed := Engine.noticesWf_iff.1 notices
  have run := exec_takeNotices h noticed
  refine ⟨fun bad => ?_, fun low high => ?_⟩
  · rw [run, Engine.takeNotices_badField bad]
    rfl
  · intro taken
    have emptied := noticed.directed.emptied_foldl taken
    refine ⟨{ taken.foldl Engine.clearNotices s.engine with notices := s.engine.notices.drop count }, ?_, ?_, emptied.get⟩
    · rw [run, Engine.takeNotices_done ⟨low, high⟩, funext noticed.directed.noticeReport]
      rfl
    · rw [emptied.rest]

/-! ## NEXT DUE (R116, R119) -/

section
variable {e : Engine} {start kit count : Nat}

theorem Engine.nextDue_badField (h : ¬(1 ≤ count ∧ count ≤ 8)) : e.nextDue start kit count = (.badField, []) :=
  if_pos (by rw [Bool.eq_false_iff.2 (mt within_iff.1 h)]; rfl)

theorem Engine.nextDue_done (h : 1 ≤ count ∧ count ≤ 8) : e.nextDue start kit count =
    (let rest := e.expiry.filter (fun d => d.after start kit)
     (.done, [flagField (count < rest.length), byteField (rest.take count).length]
      ++ (rest.take count).flatMap e.dueReport)) :=
  if_neg (by simp [within_iff.2 h])

theorem DueItem.after_eq (d : DueItem) (start kit : Nat) :
    d.after start kit = decide (start < d.instant ∨ (d.instant = start ∧ kit < d.kit)) := by
  simp [DueItem.after, beq_eq_decide]

theorem Engine.dueReport_eq (e : Engine) (d : DueItem) :
    e.dueReport d = ((e.recordOf d.kit).map (fun r => [wordField d.kit, byteField d.kind.code, wordField d.instant,
      stateField (some r.2.state), minuteField r.2.paid])).getD [] := by
  unfold Engine.dueReport
  cases e.recordOf d.kit <;> rfl

/-- With the index exact no entry lacks a record, and the request is answered. -/
theorem exec_nextDue {s : State} (h : s.grantedRequest = some (.nextDue start kit count)) (timed : s.engine.Timed) :
    exec .nextDue s = .next (s.responded s.engine (noticeResponse (.nextDue start kit count)
      (s.engine.nextDue start kit count).1 s.instant (s.engine.nextDue start kit count).2)) := by
  have present : ((s.engine.expiry.filter (fun d => d.after start kit)).take count).any
      (fun d => (s.engine.recordOf d.kit).isNone) = false := by
    refine List.any_eq_false.2 fun d hd => ?_
    simpa using timed.recordOf_ne_none (List.mem_of_mem_filter (List.mem_of_mem_take hd))
  simp only [exec, execNextDue, h, present, Bool.and_false, Bool.false_eq_true, if_false]
  exact State.answer_granted h _ _

/-! ## TABLE SUMMARY (R116, R121) -/

theorem exec_tableSummary {s : State} (h : s.grantedRequest = some .tableSummary) :
    exec .tableSummary s = .next (s.responded s.engine (noticeResponse .tableSummary .done s.instant
      (s.engine.summaryFields s.calendar.state s.instant))) := by
  simp only [exec, execTableSummary, h]
  exact State.answer_granted h _ _

end

/-- Settles O28: the entries after the position with what their records hold, and the summary field by field. -/
theorem nextDueAndTableSummary : Obligations.NextDueAndTableSummary := by
  refine ⟨fun s start kit count h expiry => ?_, fun s h => ?_⟩
  · have run := exec_nextDue h (Engine.expiryWf_iff.1 expiry)
    refine ⟨fun bad => ?_, fun low high => ?_⟩
    · rw [run, Engine.nextDue_badField bad]
      rfl
    · rw [run, Engine.nextDue_done ⟨low, high⟩, funext s.engine.dueReport_eq]
      simp only [DueItem.after_eq]
      rfl
  · rw [exec_tableSummary h]
    simp only [Engine.summaryFields, Engine.expirySummary, Engine.settlementSummary, dueFields, beq_iff_eq,
      Option.map_map]
    rfl

/-! ## CHECK-IN (R114, R126 to R139) -/

theorem exec_checkIn {s : State} {n : LineNo} {m : CheckInMsg} (h : s.grantedMessage = some (n, .checkIn m)) :
    exec .checkIn s = s.handle n (s.engine.checkIn n m s.calendar.state s.instant) := by
  simp only [exec, execCheckIn, h]

section
variable {e : Engine} {n : LineNo} {m : CheckInMsg} {calendar : CalendarState} {t : Nat} {w : Work}

theorem Engine.checkIn_unknownKit (absent : e.directory.get m.kit = none) :
    e.checkIn n m calendar t = some (e, some (.mark (.kit m.kit))) := by
  simp only [Engine.checkIn, Engine.find, absent]

theorem Engine.checkIn_badCheck (found : e.find m.kit = .found w) (bad : keyedCheck w.record.key m.covered ≠ m.check) :
    e.checkIn n m calendar t = some (w.badCheck.commit, none) := by
  simp only [Engine.checkIn, found, if_neg bad]

theorem Engine.checkIn_goodCheck (found : e.find m.kit = .found w) (good : keyedCheck w.record.key m.covered = m.check) :
    e.checkIn n m calendar t = some ((w.goodCheck m n calendar t).1.commit,
      some (.reply ((ReplyBody.grant (w.goodCheck m n calendar t).2).sealed (w.goodCheck m n calendar t).1.record.key))) := by
  simp only [Engine.checkIn, found, if_pos good]

/-- A failed check: counted up to 8, CHECK FAULT raised at the eighth (R128). -/
theorem Work.badCheck_eq (w : Work) : w.badCheck = { w with
    engine := { w.engine with
      notices := if w.record.badChecks = 7 ∧ w.record.notices = .clear then w.engine.notices ++ [w.record.kit]
        else w.engine.notices }
    record := { w.record with
      badChecks := min (w.record.badChecks + 1) 8
      notices := { w.record.notices with checkFault := w.record.notices.checkFault || w.record.badChecks == 7 } } } := by
  have eighth : (w.record.badChecks + 1 == Config.badCheckLimit) = (w.record.badChecks == 7) := by
    simp [Config.badCheckLimit]
  simp only [Work.badCheck, eighth, Work.raiseIf_eq]
  by_cases h : w.record.badChecks = 7
  · simp [h, NoticeFlags.raise, Config.badCheckLimit]
  · simp [h, beq_eq_false_iff_ne.2 h, Config.badCheckLimit]

/-- The acknowledged number, as R130 words it. -/
theorem ackedAfter_eq (acked offered held : Nat) :
    ackedAfter acked offered held =
      if held = offered then held else if held < offered ∧ acked < held then held else acked := by
  simp only [ackedAfter, Bool.and_eq_true, decide_eq_true_eq]
  split
  next same => exact same.symm
  next => rfl

/-- The record with a report and the comparison of the held number (R129 to R131). -/
def Record.reported (r : Record) (m : CheckInMsg) (n : LineNo) (t : Nat) : Record :=
  { r with
    lastCheckIn := some (t, n), energy := min (r.energy + m.energy) 4294967295
    kitFlags := ⟨m.flags.getLsbD 0, m.flags.getLsbD 1⟩
    acked := if m.held = r.offer.number then m.held
      else if m.held < r.offer.number ∧ r.acked < m.held then m.held else r.acked
    notices := { r.notices with
      tamper := r.notices.tamper || m.flags.getLsbD 0
      grantMismatch := r.notices.grantMismatch || decide (r.offer.number < m.held) } }

theorem Work.compareHeld_recordReport_record (w : Work) (m : CheckInMsg) (n : LineNo) (t : Nat) :
    ((w.recordReport m n t).compareHeld m.held).record = w.record.reported m n t := by
  have flags : kitFlagsOf m.flags = ⟨m.flags.getLsbD 0, m.flags.getLsbD 1⟩ := rfl
  simp only [Work.compareHeld, Work.recordReport, Work.raiseIf_eq, flags, ackedAfter_eq, Record.reported]
  cases m.flags.getLsbD 0 <;> by_cases h : w.record.offer.number < m.held <;> simp [h, NoticeFlags.raise, Config.max32]

/-- The whole of the report and the comparison of the held number (R114, R129 to R131). -/
theorem Work.compareHeld_recordReport (w : Work) (m : CheckInMsg) (n : LineNo) (t : Nat) :
    (w.recordReport m n t).compareHeld m.held = { w with
      engine := { w.engine with
        notices := if w.record.notices = .clear ∧ (m.flags.getLsbD 0 = true ∨ w.record.offer.number < m.held)
          then w.engine.notices ++ [w.record.kit] else w.engine.notices }
      record := w.record.reported m n t } := by
  have told := (w.leads_recordReport m n t).trans (Work.leads_compareHeld _ m.held)
  generalize hw : (w.recordReport m n t).compareHeld m.held = w' at told
  obtain ⟨engine, slot, record, plan⟩ := w'
  obtain rfl : slot = w.slot := told.slot
  obtain rfl : plan = w.plan := told.plan
  obtain rfl : _ = record := (w.compareHeld_recordReport_record m n t).symm.trans (congrArg Work.record hw)
  obtain rfl : _ = engine := (w.compareHeld_recordReport_engine m n t m.held).symm.trans (congrArg Work.engine hw)
  rfl

/-- The offer that stands after a good CHECK-IN, as R131 and R132 word it. -/
theorem Work.offerAfter_unset_or_above {held : Nat} (h : calendar = .unset ∨ w.record.offer.number < held) :
    w.offerAfter calendar held t = w.record.offer :=
  if_pos (by simpa using h)

theorem Work.offerAfter_known {held : Nat} (h : held ≤ w.record.offer.number) :
    w.offerAfter .known held t = w.record.offer.after (w.record.desired w.plan t) w.plan.renew :=
  if_neg (by simpa using h)

/-- A current record after a good CHECK-IN: the report, the comparison of the held number and the offer decided, and the
record in the notice list when one of them raised a notice on an empty set (R114, R129 to R136). -/
def Work.checkedIn (w : Work) (m : CheckInMsg) (n : LineNo) (calendar : CalendarState) (t : Nat) : Work :=
  { w with
    engine := { w.engine with
      notices := if w.record.notices = .clear ∧ (m.flags.getLsbD 0 = true ∨ w.record.offer.number < m.held)
        then w.engine.notices ++ [w.record.kit] else w.engine.notices }
    record := { w.record.reported m n t with offer := w.offerAfter calendar m.held t } }

theorem Work.goodCheck_eq (w : Work) (m : CheckInMsg) (n : LineNo) (calendar : CalendarState) (t : Nat) :
    (w.goodCheck m n calendar t).1 =
      (Work.current { w with record := { w.record with badChecks := 0 } } t).checkedIn m n calendar t := by
  simp only [Work.goodCheck, Work.compareHeld_recordReport]
  rfl

theorem Work.goodCheck_reply (w : Work) (m : CheckInMsg) (n : LineNo) (calendar : CalendarState) (t : Nat) :
    (w.goodCheck m n calendar t).2 = if calendar = .unset then (w.goodCheck m n calendar t).1.record.holdReply t
      else (w.goodCheck m n calendar t).1.record.grantReply t :=
  rfl

/-- The run minutes of a reply that sends an offer, as R61 and R139 word them. -/
theorem Offer.runMinutes_eq (o : Offer) (t : Nat) :
    o.runMinutes t = if o.kind = some .run then min (o.runThrough.getD 0 - t) 65535 else 0 := by
  obtain ⟨number, kind, through⟩ := o
  unfold Offer.runMinutes
  split
  next kind' through' => simp_all [Sys2Proof.Machine.runMinutes, Config.runMinutesMax]
  next other =>
    split
    next run =>
      cases through with
      | none => simp
      | some x => exact absurd rfl (other x run)
    next => rfl

/-- The fields of the reply: HOLD while the calendar is UNSET, and otherwise the record's offer (R132, R139). -/
theorem Record.reply_spec (r : Record) (calendar : CalendarState) (t : Nat) :
    let g := if calendar = .unset then r.holdReply t else r.grantReply t
    g.kit = r.kit ∧ g.number = r.offer.number ∧ g.days = r.kitDays t ∧
      (calendar = .unset → g.kind = .hold ∧ g.runMinutes = 0) ∧
      (calendar = .known →
        g.kind = (match r.offer.kind with
          | some .run => .run
          | some .owned => .owned
          | some .lock => .lock
          | none => .lock) ∧
        g.runMinutes = if r.offer.kind = some .run then min (r.offer.runThrough.getD 0 - t) 65535 else 0) := by
  cases calendar with
  | unset => exact ⟨rfl, rfl, rfl, fun _ => ⟨rfl, rfl⟩, nofun⟩
  | known =>
    refine ⟨rfl, rfl, rfl, nofun, fun _ => ⟨?_, r.offer.runMinutes_eq t⟩⟩
    show r.offer.replyKind = _
    unfold Offer.replyKind
    cases r.offer.kind with
    | none => rfl
    | some kind => cases kind <;> rfl

end

/-- Settles O41: the mark of an unknown kit, the failed check counted, and the good CHECK-IN answered with its grant. -/
theorem checkInIsAnswered : Obligations.CheckInIsAnswered := by
  intro s n m h t
  refine ⟨fun absent => ?_, fun w found => ⟨fun bad => ?_, fun good => ?_⟩⟩
  · rw [exec_checkIn h, Engine.checkIn_unknownKit absent]
    exact State.handle_reply s n _ _
  · rw [exec_checkIn h, Engine.checkIn_badCheck found bad, Work.badCheck_eq]
    exact State.handle_silent s n _
  have work := w.goodCheck_eq m n s.calendar.state t
  have reply := w.goodCheck_reply m n s.calendar.state t
  have run := exec_checkIn h
  rw [Engine.checkIn_goodCheck found good, State.handle_reply] at run
  generalize w.goodCheck m n s.calendar.state t = answered at work reply run
  generalize Work.current { w with record := { w.record with badChecks := 0 } } t = c at work ⊢
  obtain ⟨w', g⟩ := answered
  obtain rfl : w' = c.checkedIn m n s.calendar.state t := work
  intro c' r
  obtain ⟨kit, number, days, unset, known⟩ := (c.checkedIn m n s.calendar.state t).record.reply_spec s.calendar.state t
  rw [← reply] at kit number days unset known
  refine ⟨c.checkedIn m n s.calendar.state t, g, run, rfl, rfl, rfl, rfl, Work.offerAfter_unset_or_above,
    fun set least => ?_, kit, number, days, unset, known⟩
  exact (congrArg (fun x => c.offerAfter x m.held t) set).trans (Work.offerAfter_known least)

end Sys2Proof.Machine

/-! # The offer that follows from a record (R133 to R138) -/

namespace Sys2Proof.Machine

/-! ## The desired grant (R133 to R135) -/

section
variable {r : Record} {p : Plan} {t : Nat}

/-- An overhang is an offered RUN that reaches beyond paid-through (R6). -/
theorem Record.overhang_pos :
    0 < r.overhang ↔
      r.offer.kind = some .run ∧ r.paid.isSome = true ∧ r.paid.getD 0 < r.offer.runThrough.getD 0 := by
  unfold Record.overhang
  split
  next through paid kind run credit => simp [kind, run, credit]
  next other =>
    refine ⟨fun h => absurd h (Nat.lt_irrefl 0), fun ⟨kind, credit, beyond⟩ => ?_⟩
    obtain ⟨paid, credit⟩ := Option.isSome_iff_exists.1 credit
    cases run : r.offer.runThrough with
    | none => simp [run] at beyond
    | some through => exact (other through paid kind run credit).elim

theorem Record.desired_of_locked (active : r.state ≠ .active) (owned : r.state ≠ .owned) :
    r.desired p t = .offer .lock none := by
  unfold Record.desired
  cases h : r.state with
  | active => exact absurd h active
  | owned => exact absurd h owned
  | enrolled | lapsed | defaulted | suspended => rfl

theorem Record.desired_of_owned (owned : r.state = .owned) : r.desired p t = .offer .owned none := by
  simp only [Record.desired, owned]

theorem Record.desired_of_overhang (active : r.state = .active) (beyond : 0 < r.overhang) :
    r.desired p t = if p.clawBack then .shrink (r.desiredThrough p t) else .standing := by
  simp only [Record.desired, active, if_pos beyond]

theorem Record.desired_of_no_overhang (active : r.state = .active) (within : ¬0 < r.overhang) :
    r.desired p t = .offer .run (some (r.desiredThrough p t)) := by
  simp only [Record.desired, active, if_neg within]

/-- A RUN is desired through the smaller of paid-through and the lease, as an offer and as a shrink (R134, R135). -/
theorem Record.desired_through :
    (∀ through, r.desired p t = .offer .run through → through = some (r.desiredThrough p t)) ∧
      ∀ through, r.desired p t = .shrink through → through = r.desiredThrough p t := by
  by_cases active : r.state = .active
  · by_cases beyond : 0 < r.overhang
    · rw [Record.desired_of_overhang active beyond]
      cases p.clawBack <;> simp [eq_comm]
    · simp [Record.desired_of_no_overhang active beyond, eq_comm]
  · by_cases owned : r.state = .owned
    · simp [Record.desired_of_owned owned]
    · simp [Record.desired_of_locked active owned]

end

/-! ## The offer issued or repeated (R136, R137) -/

section
variable {o : Offer} {kind : GrantKind} {through : Option Nat} {renew : Nat}

/-- At the largest number the standing offer is repeated, whatever is desired (R136). -/
theorem Offer.after_of_full (full : 4294967295 ≤ o.number) (d : Desired) : o.after d renew = o :=
  if_pos full

theorem Offer.after_offer (room : o.number < 4294967295) :
    o.after (.offer kind through) renew =
      if o.callsFor kind through renew then ⟨o.number + 1, some kind, through⟩ else o :=
  if_neg (Nat.not_le.2 room)

theorem Offer.after_shrink (room : o.number < 4294967295) (new : Nat) :
    o.after (.shrink new) renew = ⟨o.number + 1, some .run, some new⟩ :=
  if_neg (Nat.not_le.2 room)

theorem Offer.after_standing : o.after .standing renew = o :=
  ite_self o

/-- Another kind than the offered one is issued anew (R136). -/
theorem Offer.after_other_kind (room : o.number < 4294967295) (other : o.kind ≠ some kind) :
    o.after (.offer kind through) renew = ⟨o.number + 1, some kind, through⟩ := by
  rw [Offer.after_offer room, if_pos]
  simp [Offer.callsFor, other]

/-- LOCK and OWNED have no run-through, and are repeated where they are offered already (R136, R137). -/
theorem Offer.after_same_kind (same : o.kind = some kind) : o.after (.offer kind none) renew = o := by
  have quiet : o.callsFor kind none renew = false := by simp [Offer.callsFor, same]
  simp [Offer.after, quiet]

/-- An offered RUN is issued anew when it reaches the renew step further, and otherwise repeated (R136, R137). -/
theorem Offer.after_run {old new : Nat} (room : o.number < 4294967295) (same : o.kind = some .run)
    (run : o.runThrough = some old) :
    o.after (.offer .run (some new)) renew =
      if old + renew ≤ new then ⟨o.number + 1, some .run, some new⟩ else o := by
  simp [Offer.after_offer room, Offer.callsFor, same, run]

/-- An offer that differs from the standing one has the kind and the run-through that were desired (R136). -/
theorem Offer.after_ne {d : Desired} (issued : o.after d renew ≠ o) :
    (∃ kind through, d = .offer kind through ∧ o.after d renew = ⟨o.number + 1, some kind, through⟩) ∨
      ∃ through, d = .shrink through ∧ o.after d renew = ⟨o.number + 1, some .run, some through⟩ := by
  have room : o.number < 4294967295 := Nat.lt_of_not_le fun full => issued (Offer.after_of_full full d)
  cases d with
  | offer kind through =>
    rw [Offer.after_offer room] at issued ⊢
    split at issued
    next calls => exact .inl ⟨kind, through, rfl, if_pos calls⟩
    next => exact absurd rfl issued
  | shrink through => exact .inr ⟨through, rfl, Offer.after_shrink room through⟩
  | standing => exact absurd Offer.after_standing issued

/-- A RUN that is issued reaches through the smaller of paid-through and the lease (R134 to R136). -/
theorem Offer.runThrough_of_issued_run {r : Record} {p : Plan} {t : Nat} (issued : o.after (r.desired p t) renew ≠ o)
    (run : (o.after (r.desired p t) renew).kind = some .run) :
    (o.after (r.desired p t) renew).runThrough = some (r.desiredThrough p t) := by
  obtain ⟨offered, shrunk⟩ := Record.desired_through (r := r) (p := p) (t := t)
  obtain ⟨kind, through, desired, next⟩ | ⟨through, desired, next⟩ := Offer.after_ne issued
  · rw [next] at run ⊢
    obtain rfl : kind = .run := Option.some.inj run
    exact offered through desired
  · rw [next]
    exact congrArg some (shrunk through desired)

end

/-- Settles O42: by the state of the record and its overhang, the desired grant and then what is issued for it. -/
theorem offersFollowTheRecord : Obligations.OffersFollowTheRecord := by
  intro r p t next run overhang issued
  refine ⟨fun full => Offer.after_of_full full _, fun room => ⟨fun active owned => ?_, fun owned => ?_,
    fun active beyond => ?_, fun active within => ?_⟩, fun fresh kind _ => ?_⟩
  · have desired : r.desired p t = .offer .lock none := Record.desired_of_locked active owned
    simp only [next, issued, desired]
    exact ⟨Offer.after_same_kind, Offer.after_other_kind room⟩
  · have desired : r.desired p t = .offer .owned none := Record.desired_of_owned owned
    simp only [next, issued, desired]
    exact ⟨Offer.after_same_kind, Offer.after_other_kind room⟩
  · have desired := Record.desired_of_overhang (p := p) (t := t) active (Record.overhang_pos.2 beyond)
    simp only [next, issued, desired]
    refine ⟨fun on => ?_, fun off => ?_⟩
    · rw [if_pos on]
      exact Offer.after_shrink room run
    · rw [off]
      exact Offer.after_standing
  · have desired : r.desired p t = .offer .run (some run) :=
      Record.desired_of_no_overhang active (mt Record.overhang_pos.1 within)
    simp only [next, issued, desired]
    refine ⟨Offer.after_other_kind room, fun old same through => ?_⟩
    rw [Offer.after_run room same through]
    exact ⟨fun further => if_pos further, fun short => if_neg (Nat.not_le.2 short)⟩
  · calc next.runThrough.getD 0 = run := congrArg (Option.getD · 0) (Offer.runThrough_of_issued_run fresh kind)
      _ ≤ r.paid.getD 0 := Nat.min_le_left ..

end Sys2Proof.Machine

/-! # The calendar stays on a real date -/

namespace Sys2Proof.Machine

/-! ## What a command makes of the calendar and of what the engine holds

The soundness that every command keeps follows from the list below, which says once what becomes of the two: they stand, the
calendar counts, a request is held, what is held reaches the calendar or is lost, or a cold start empties both. -/

/-- What a command leaves of the calendar `c` and of what the engine holds. -/
inductive Calendar.Change (c : Calendar) (held : Option Hold) : Calendar → Option Hold → Prop
  | same : c.Change held c held
  | tick : c.Change held c.tick held
  | endHold : c.Change held c.endHold held
  | sent {hold : Hold} (range : hold.inRange = true) : c.Change held c (some hold)
  | finish : c.Change held (c.finish held) none
  | lost : c.Change held c none
  | cold : c.Change held .cold none

section
variable {s s' : State}

theorem Calendar.Change.of_eq {c c' : Calendar} {held held' : Option Hold} (calendar : c' = c) (hold : held' = held) :
    c.Change held c' held' := by
  subst calendar hold
  exact .same

/-! ### The endings of a command -/

theorem State.answer_calendar {work : Handled} (h : s.answer work = .next s') :
    s.calendar.Change s.hold s'.calendar s'.hold := by
  cases work with
  | none => cases h
  | some left => cases h; exact .of_eq (State.deliver_calendar ..) (State.deliver_hold ..)

theorem State.handle_calendar {n : LineNo} {work : MessageWork} (h : s.handle n work = .next s') :
    s.calendar.Change s.hold s'.calendar s'.hold := by
  match work with
  | none => cases h
  | some (e, none) => cases h; exact .same
  | some (e, some d) => cases h; exact .sent rfl

theorem State.passOver_calendar {r : Requester} {kit : Nat} (h : s.passOver r kit = .next s') :
    s.calendar.Change s.hold s'.calendar s'.hold := by
  unfold State.passOver at h
  split at h <;> cases h
  exact .same

/-- What the engine holds has reached the calendar, and the request completes. -/
theorem State.complete_calendar_finish {c : Calendar} (arrived : s.calendar.finish s.hold = c) (r : Response) :
    s.calendar.Change s.hold (State.complete { s with calendar := c } r).calendar
      (State.complete { s with calendar := c } r).hold := by
  rw [State.complete_calendar, State.complete_hold, ← arrived]
  exact .finish

/-- A request completes whose command does not concern the calendar. -/
theorem State.complete_calendar_lost {a : State} (calendar : a.calendar = s.calendar) (r : Response) :
    s.calendar.Change s.hold (a.complete r).calendar (a.complete r).hold := by
  rw [State.complete_calendar, State.complete_hold, calendar]
  exact .lost

/-- A command that acts on a condition, and is otherwise out of turn. -/
theorem calendar_of_next_ite {c : Prop} [Decidable c] {a : State} (h : Host.Outcome.next (if c then a else s) =
    (.next s' : Host.Outcome State Fault Refusal)) (ha : s.calendar.Change s.hold a.calendar a.hold) :
    s.calendar.Change s.hold s'.calendar s'.hold := by
  obtain rfl := Host.Outcome.next.inj h
  split
  · exact ha
  · exact .same

/-! ### Frames and the supply -/

/-- A frame touches nothing but the port. -/
theorem State.frame_eq {before clocks : Nat} {live : Status → State}
    (hl : ∀ x, live x = { s with port := (live x).port }) :
    s.frame before clocks live = { s with port := (s.frame before clocks live).port } := by
  unfold State.frame
  split
  · rfl
  · split
    case h_1 | h_2 => exact hl _
    all_goals rfl

theorem State.readAny_eq (s : State) (before clocks : Nat) :
    s.readAny before clocks = { s with port := (s.readAny before clocks).port } :=
  State.frame_eq fun x => s.readFrame_eq x clocks

theorem execRequestFrame_eq {frame : FrameIn} (h : execRequestFrame frame s = .next s') : s' = { s with port := s'.port } := by
  unfold execRequestFrame at h
  split at h
  · cases h; rfl
  split at h
  · cases h; exact State.readAny_eq ..
  · cases h; exact State.frame_eq fun x => s.judgeFrame_eq x _

/-- A start leaves the engine idle, and with an invalid mark the calendar at the epoch (R159, R187). -/
theorem execMainSupplyGoodRise_calendar {failWarning cellLow : Bool}
    (h : execMainSupplyGoodRise failWarning cellLow s = .next s') : s.calendar.Change s.hold s'.calendar s'.hold := by
  have started : s.calendar.Change s.hold ((if s.supply.mark then s else s.coldStart).starting cellLow).calendar none := by
    cases s.supply.mark
    · exact .cold
    · exact .lost
  unfold execMainSupplyGoodRise at h
  split at h
  case h_4 | h_5 =>
    cases h
    cases failWarning <;> exact started
  all_goals
    cases h
    exact .same

/-- Without main supply the calendar is kept while the cell holds, and lost otherwise (R159, R185). -/
theorem State.retained_calendar_change {c : Calendar} {held : Option Hold} (h : c.Change held s.calendar none)
    (settings : LineNo → Settings) (holds : Bool) :
    c.Change held ((s.retained settings).orUnpowered holds).calendar ((s.retained settings).orUnpowered holds).hold := by
  cases holds
  · exact .cold
  · exact h

/-- After a fail warning what the engine has sent reaches the calendar; without one it is lost (R159, R186). -/
theorem execMainSupplyGoodFall_calendar {fall : SupplyFall} (h : execMainSupplyGoodFall fall s = .next s') :
    s.calendar.Change s.hold s'.calendar s'.hold := by
  unfold execMainSupplyGoodFall at h
  split at h
  case h_1 | h_2 => cases h; exact .same
  case h_3 => cases h; exact State.retained_calendar_change .finish ..
  case h_4 | h_5 =>
    split at h
    · cases h; exact State.retained_calendar_change (by exact .lost) ..
    · cases h; exact State.retained_calendar_change (by exact .lost) ..

/-! ### The requests on time -/

/-- A SET TIME that is not refused carries a real date (R153). -/
theorem Calendar.valid_of_accepted {c : Calendar} {d : DateTime} {step : Nat} (h : c.refuseTime d step = none) :
    d.valid = true := by
  unfold Calendar.refuseTime at h
  split at h
  · cases h
  next valid => simpa using valid

/-! ### Every command -/

/-- What any command leaves of the calendar and of what the engine holds. -/
theorem exec_calendar {c : Instr} (h : exec c s = .next s') : s.calendar.Change s.hold s'.calendar s'.hold := by
  cases c
  -- requests that the engine may go on holding
  case setTime =>
    simp only [exec, execSetTime] at h
    split at h
    · split at h
      · exact State.answer_calendar h
      next accepted => cases h; exact .sent (Calendar.valid_of_accepted accepted)
    · cases h; exact .same
  case setRegulation =>
    simp only [exec, execSetRegulation] at h
    split at h
    · split at h
      next range => cases h; exact .sent (decide_eq_true range)
      · exact State.answer_calendar h
    · cases h; exact .same
  case alignMinute | setAttentionMask =>
    simp only [exec, execAlignMinute, execSetAttentionMask] at h
    split at h
    · split at h
      · exact State.answer_calendar h
      · cases h; exact .sent rfl
    · cases h; exact .same
  case readLine =>
    simp only [exec, execReadLine] at h
    split at h
    · split at h
      · cases h; exact .sent rfl
      · exact State.answer_calendar h
    · cases h; exact .same
  -- requests that are answered in one step
  case setLine =>
    simp only [exec, execSetLine] at h
    split at h
    · split at h
      · exact State.answer_calendar (s := s.send _ _) h
      · exact State.answer_calendar h
    · cases h; exact .same
  case movePlan | takeNotices | nextDue =>
    simp only [exec, execMovePlan, execTakeNotices, execNextDue] at h
    split at h
    · split at h <;> exact State.answer_calendar h
    · cases h; exact .same
  case unknownRequestKind =>
    simp only [exec, execUnknownRequestKind] at h
    split at h
    · cases h; exact .same
    · split at h
      · cases h; exact .same
      · exact State.answer_calendar h
  case enrolKit | lookupKit | suspendKit | resumeKit | setKitKey | retireKit | definePlan | amendPlan | readPlan | releasePlan
    | pay | confirm | reverse | openAgent | amendAgent | readAgent | barAgent | unbarAgent | closeAgent | clearWatermark
    | tableSummary | readTime | readAttention =>
    simp only [exec, execEnrolKit, execLookupKit, execSuspendKit, execResumeKit, execSetKitKey, execRetireKit,
      execDefinePlan, execAmendPlan, execReadPlan, execReleasePlan, execPay, execConfirm, execReverse, execOpenAgent,
      execAmendAgent, execReadAgent, execBarAgent, execUnbarAgent, execCloseAgent, execClearWatermark, execTableSummary,
      execReadTime, execReadAttention] at h
    split at h
    · exact State.answer_calendar h
    · cases h; exact .same
  -- line messages, passes and frames
  case checkIn | topUp | status =>
    simp only [exec, execCheckIn, execTopUp, execStatus] at h
    split at h
    · exact State.handle_calendar h
    · cases h; exact .same
  case expiryPass | settlementPass =>
    simp only [exec, execExpiryPass, execSettlementPass] at h
    split at h
    · exact State.passOver_calendar h
    · cases h; exact .same
  case requestFrame =>
    rw [execRequestFrame_eq h]
    exact .same
  case readFrame =>
    obtain rfl := Host.Outcome.next.inj h
    rw [State.readAny_eq]
    exact .same
  -- the calendar's own events and the arrivals of what the engine holds
  case timebaseStep => exact calendar_of_next_ite h .tick
  case regulationHoldEnd => exact calendar_of_next_ite h .endHold
  case timeLoad | alignCommand | regulationWrite =>
    simp only [exec, execTimeLoad, execAlignCommand, execRegulationWrite] at h
    split at h <;> cases h
    next holds => exact State.complete_calendar_finish (by rw [holds]; rfl) _
    next => exact .same
  case maskWrite =>
    simp only [exec, execMaskWrite] at h
    split at h <;> cases h
    · exact State.complete_calendar_lost (by rfl) _
    · exact .same
  case readCommand =>
    simp only [exec, execReadCommand] at h
    split at h <;> cases h
    · exact State.complete_calendar_lost (by rfl) _
    · exact .same
  case lineDelivery =>
    simp only [exec, execLineDelivery] at h
    split at h <;> cases h
    · exact .lost
    · exact .same
  -- events of the lines and the supply
  case settingsCommand =>
    simp only [exec, execSettingsCommand] at h
    split at h <;> cases h <;> exact .same
  case receiveCharacter | gapTimeout | replyBegin | replyEnd | resetAssert | resetRestart =>
    exact calendar_of_next_ite h .same
  case startComplete | failWarningRise | backupLowChange =>
    simp only [exec, execStartComplete, execFailWarningRise, execBackupLowChange] at h
    split at h <;> cases h <;> exact .same
  case mainSupplyGoodRise => exact execMainSupplyGoodRise_calendar h
  case mainSupplyGoodFall => exact execMainSupplyGoodFall_calendar h
  case backupBelowRetention => exact calendar_of_next_ite h .cold

end

/-! ## What becomes of a sound calendar is sound (R145) -/

theorem Calendar.wf_cold : Calendar.cold.wf := by decide

/-- A command in its range that reaches a sound calendar leaves it sound (R154, R156, R158). -/
theorem Calendar.wf_finish {c : Calendar} {held : Option Hold} (h : c.wf) (range : ∀ hold ∈ held, hold.inRange = true) :
    (c.finish held).wf := by
  match held with
  | some (.timeLoad _ d) => exact Calendar.wf_load h (range _ rfl)
  | some .align => exact Calendar.wf_align h
  | some (.regulation v) => exact Calendar.wf_regulation h (of_decide_eq_true (range _ rfl))
  | some (.lineReport _) | some (.maskWrite _) | some (.message _) | none => exact h

theorem Calendar.Change.wf {c c' : Calendar} {held held' : Option Hold} (change : c.Change held c' held') (h : c.wf)
    (range : ∀ hold ∈ held, hold.inRange = true) : c'.wf ∧ ∀ hold ∈ held', hold.inRange = true := by
  cases change with
  | same => exact ⟨h, range⟩
  | tick => exact ⟨Calendar.wf_tick h, range⟩
  | endHold => exact ⟨Calendar.wf_endHold h, range⟩
  | sent good => exact ⟨h, by simpa using good⟩
  | finish => exact ⟨Calendar.wf_finish h range, nofun⟩
  | lost => exact ⟨h, nofun⟩
  | cold => exact ⟨Calendar.wf_cold, nofun⟩

/-- Settles O57: each of the few things a command can make of the calendar and of the hold is sound. -/
theorem calendarStaysValid : Obligations.CalendarStaysValid := fun _ _ _ ⟨calendar, range⟩ h =>
  (exec_calendar h).wf calendar range

end Sys2Proof.Machine

/-! # The time requests, and counting -/

namespace Sys2Proof.Machine

/-! ## READ TIME (R149, R151, R152) -/

/-- Settles O29: the report made at the take is the response. -/
theorem readTimeReports : Obligations.ReadTimeReports := by
  intro s granted c
  simp only [exec, execReadTime, granted, State.answer_granted granted]
  rfl

/-! ## SET TIME refused and accepted (R153) -/

section
variable {c : Calendar} {d held : DateTime} {step : Nat}

theorem DateTime.stepTooLarge_iff :
    d.stepTooLarge held = true ↔ held.seconds + 900 < d.seconds ∨ d.seconds + 900 < held.seconds := by
  rw [DateTime.stepTooLarge, Bool.or_eq_true, decide_eq_true_iff, decide_eq_true_iff]
  exact Iff.rfl

theorem Calendar.refuseTime_invalid (h : d.valid = false) : c.refuseTime d step = some .badField := by
  simp [Calendar.refuseTime, h]

/-- While the calendar is UNSET the STEP byte is not read (R153). -/
theorem Calendar.refuseTime_unset (valid : d.valid = true) (unset : c.state ≠ .known) : c.refuseTime d step = none := by
  have state : c.state = .unset := by
    cases h : c.state with
    | unset => rfl
    | known => exact absurd h unset
  simp [Calendar.refuseTime, valid, state]

/-- While it is SET the STEP byte is to be 0 or 1 (R192). -/
theorem Calendar.refuseTime_noFlag (valid : d.valid = true) (known : c.state = .known) (high : 1 < step) :
    c.refuseTime d step = some .badField := by
  have noFlag : flagOf step = none := by
    rw [← Option.not_isSome_iff_eq_none, flagOf_isSome]
    omega
  simp [Calendar.refuseTime, valid, known, noFlag]

theorem Calendar.refuseTime_flag (valid : d.valid = true) (known : c.state = .known) (flag : step ≤ 1) :
    c.refuseTime d step = if step = 0 ∧ d.stepTooLarge c.time = true then some .stepTooLarge else none := by
  have isFlag : (flagOf step).isSome = true := flagOf_isSome.2 flag
  simp [Calendar.refuseTime, valid, known, Option.ne_none_iff_isSome.2 isFlag]

end

section
variable {s : State} {d : DateTime} {step : Nat}

theorem exec_setTime_refused {result : Result} (granted : s.grantedRequest = some (.setTime d step))
    (refused : s.calendar.refuseTime d step = some result) :
    exec .setTime s = .next (s.responded s.engine ⟨0x51, result, []⟩) := by
  simp only [exec, execSetTime, granted, refused, State.answer_granted granted]
  rfl

theorem exec_setTime_accepted (granted : s.grantedRequest = some (.setTime d step))
    (accepted : s.calendar.refuseTime d step = none) :
    exec .setTime s = .next (s.heldFor (.timeLoad s.calendar d)) := by
  simp only [exec, execSetTime, granted, accepted, State.holdPort_eq]

/-! ## The arrival of a command at the calendar (R154, R156, R158) -/

/-- A completed request gives its response to a port that takes it, and otherwise loses it (R33, R181). -/
theorem State.released_or_lost {o : Host.Outcome State Fault Refusal} {r : Response} (h : o = .next (s.complete r)) :
    (s.takesResponse = true → o = .next (s.released r)) ∧ (s.takesResponse = false → o = .next { s with hold := none }) :=
  ⟨fun takes => State.complete_of_takes takes r ▸ h, fun loses => State.complete_of_not_takes loses r ▸ h⟩

theorem exec_timeLoad {taken : Calendar} (holds : s.hold = some (.timeLoad taken d)) :
    exec .timeLoad s = .next (State.complete { s with calendar := s.calendar.load d }
      ⟨0x51, .done, taken.takenFields ++ (s.calendar.load d).report⟩) := by
  simp only [exec, execTimeLoad, holds]
  rfl

theorem exec_alignCommand (holds : s.hold = some .align) :
    exec .alignCommand s = .next (State.complete { s with calendar := s.calendar.align }
      ⟨0x52, .done, [byteField s.calendar.time.second, flagField s.calendar.alignAdvances] ++ s.calendar.align.report⟩) := by
  simp only [exec, execAlignCommand, holds]
  rfl

theorem exec_regulationWrite {v : Int} (holds : s.hold = some (.regulation v)) :
    exec .regulationWrite s = .next (State.complete { s with calendar := { s.calendar with regulation := v } }
      ⟨0x53, .done, regulationField s.calendar.regulation :: Calendar.report { s.calendar with regulation := v }⟩) := by
  simp only [exec, execRegulationWrite, holds]
  rfl

end

/-- A load raises one minute event when it moves the district minute on, and none otherwise (R154). -/
theorem Calendar.load_eq (c : Calendar) (d : DateTime) :
    c.load d = { c with
      state := .known, time := d, districtMinute := d.districtMinute, sub := 0, hold := 0
      minuteEvents := c.minuteEvents + (if c.districtMinute < d.districtMinute then 1 else 0) } := by
  unfold Calendar.load
  split <;> rfl

/-- Settles O30: the checks in their order, and the load that arrives. -/
theorem setTimeLoadsCalendar : Obligations.SetTimeLoadsCalendar := by
  refine ⟨fun s d step granted => ?_, fun s taken d holds => ?_⟩
  · intro c known far refused accepted
    have refuses {result : Result} : s.calendar.refuseTime d step = some result → refused result :=
      exec_setTime_refused granted
    have accepts : s.calendar.refuseTime d step = none → accepted := exec_setTime_accepted granted
    have isFar : d.stepTooLarge c.time = true ↔ far := DateTime.stepTooLarge_iff
    refine ⟨fun invalid => refuses (Calendar.refuseTime_invalid invalid),
      fun valid unset => accepts (Calendar.refuseTime_unset valid unset),
      fun valid set high => refuses (Calendar.refuseTime_noFlag valid set high),
      fun valid set clear large => refuses ?_, fun valid set clear small => accepts ?_, fun valid set step => accepts ?_⟩
    · rw [Calendar.refuseTime_flag valid set (by omega), if_pos ⟨clear, isFar.2 large⟩]
    · rw [Calendar.refuseTime_flag valid set (by omega), if_neg fun h => small (isFar.1 h.2)]
    · rw [Calendar.refuseTime_flag valid set (by omega), if_neg fun h => by omega]
  · have run := exec_timeLoad holds
    rw [Calendar.load_eq] at run
    exact State.released_or_lost run

/-! ## ALIGN MINUTE (R148, R156) -/

section
variable {c : Calendar}

theorem Calendar.alignAdvances_iff : c.alignAdvances = true ↔ 30 ≤ c.time.second ∧
    ¬(c.time.year = 2199 ∧ c.time.month = 12 ∧ c.time.day = 31 ∧ c.time.hour = 23 ∧ c.time.minute = 59) := by
  rw [← DateTime.lastMinute_iff]
  simp [Calendar.alignAdvances]

theorem Calendar.align_of_advances (h : c.alignAdvances = true) :
    c.align = Calendar.advanceMinute { c with time := { c.time with second := 0 }, sub := 0, hold := 0 } :=
  if_pos h

theorem Calendar.align_of_not_advances (h : ¬c.alignAdvances = true) :
    c.align = { c with time := { c.time with second := 0 }, sub := 0, hold := 0 } :=
  if_neg h

/-- What an align command clears, and what it leaves (R156). -/
theorem Calendar.align_clears (c : Calendar) : c.align.sub = 0 ∧ c.align.hold = 0 ∧ c.align.state = c.state ∧
    c.align.regulation = c.regulation ∧ c.align.time.second = 0 := by
  by_cases h : c.alignAdvances = true
  · rw [Calendar.align_of_advances h]
    exact ⟨rfl, rfl, rfl, rfl, DateTime.nextMinute_second _⟩
  · rw [Calendar.align_of_not_advances h]
    exact ⟨rfl, rfl, rfl, rfl, rfl⟩

end

section
variable {s : State}

theorem exec_alignMinute_unset (granted : s.grantedRequest = some .alignMinute) (unset : s.calendar.state = .unset) :
    exec .alignMinute s = .next (s.responded s.engine ⟨0x52, .timeUnset, []⟩) := by
  simp only [exec, execAlignMinute, granted, unset, State.answer_granted granted]
  rfl

theorem exec_alignMinute_known (granted : s.grantedRequest = some .alignMinute) (known : s.calendar.state = .known) :
    exec .alignMinute s = .next (s.heldFor .align) := by
  simp only [exec, execAlignMinute, granted, known, State.holdPort_eq]

/-! ## SET REGULATION (R158, R192) -/

/-- A regulation value in its range, as R158 gives it. -/
theorem regulation_inRange_iff {v : Int} : v.natAbs ≤ Config.regulationMax ↔ -63 ≤ v ∧ v ≤ 63 := by
  unfold Config.regulationMax
  omega

theorem exec_setRegulation {value : Nat} (granted : s.grantedRequest = some (.setRegulation value)) :
    exec .setRegulation s = .next (if -63 ≤ (BitVec.ofNat 8 value).toInt ∧ (BitVec.ofNat 8 value).toInt ≤ 63 then
      s.heldFor (.regulation (BitVec.ofNat 8 value).toInt) else s.responded s.engine ⟨0x53, .badField, []⟩) := by
  simp only [exec, execSetRegulation, granted, regulation_inRange_iff, regulationOf, State.answer_granted granted,
    State.holdPort_eq]
  split <;> rfl

end

/-- Settles O31: each request with its refusal and its hold, then the arrival of its command. -/
theorem alignAndRegulationAct : Obligations.AlignAndRegulationAct := by
  refine ⟨⟨fun s granted => ⟨exec_alignMinute_unset granted, exec_alignMinute_known granted⟩,
    fun s holds sound => ?_⟩, fun s value granted => ?_, fun s v holds => State.released_or_lost (exec_regulationWrite holds)⟩
  · intro t last advances
    have isAdvance : s.calendar.alignAdvances = true ↔ advances := Calendar.alignAdvances_iff
    obtain ⟨valid, minute, -⟩ := Calendar.wf_align sound
    obtain ⟨sub, hold, state, regulation, second⟩ := s.calendar.align_clears
    have run := exec_alignCommand holds
    rw [show s.calendar.alignAdvances = decide advances from Bool.eq_iff_iff.2 (by simp [isAdvance])] at run
    refine ⟨s.calendar.align, sub, hold, state, regulation, second, valid, minute, fun adv => ?_, fun stays => ?_,
      State.released_or_lost run⟩
    · rw [Calendar.align_of_advances (isAdvance.2 adv)]
      exact ⟨rfl, rfl⟩
    · rw [Calendar.align_of_not_advances (mt isAdvance.1 stays)]
      exact ⟨rfl, rfl, rfl⟩
  · intro v
    rw [exec_setRegulation granted]
    exact ⟨fun outside => congrArg Host.Outcome.next (if_neg (by omega)),
      fun low high => congrArg Host.Outcome.next (if_pos ⟨low, high⟩)⟩

/-! ## A step of the timebase (R147 to R149) -/

section
variable {c : Calendar}

theorem Calendar.tick_of_hold (h : 0 < c.hold) : c.tick = { c with hold := c.hold - 1 } :=
  if_pos h

theorem Calendar.tick_of_count (free : c.hold = 0) (short : c.sub < 1023) : c.tick = { c with sub := c.sub + 1 } := by
  rw [Calendar.tick, if_neg (by omega), if_pos (by unfold Config.secondSteps; omega)]

/-- The sub-second count wraps at 1023 (R147). -/
theorem Calendar.tick_of_wrap (free : c.hold = 0) (full : c.sub = 1023) : c.tick = Calendar.rollover { c with sub := 0 } := by
  rw [Calendar.tick, if_neg (by omega), if_neg (by unfold Config.secondSteps; omega)]

theorem Calendar.rollover_of_second (h : c.time.second < 59) :
    c.rollover = { c with time := { c.time with second := c.time.second + 1 } } :=
  if_pos h

/-- At the end of the range nothing advances (R148). -/
theorem Calendar.rollover_of_last (h : c.time.second = 59) (last : c.time.lastMinute = true) : c.rollover = c := by
  rw [Calendar.rollover, if_neg (by omega), if_pos last]

theorem Calendar.rollover_of_minute (h : c.time.second = 59) (inside : c.time.lastMinute = false) :
    c.rollover = c.advanceMinute.regulate := by
  rw [Calendar.rollover, if_neg (by omega), if_neg (by simp [inside])]

/-- At a minute that is a multiple of ten a value above 0 moves the count on, and one below 0 begins a hold (R149). -/
theorem Calendar.regulate_eq (c : Calendar) :
    c.regulate = { c with
      sub := if c.time.minute % 10 = 0 ∧ 0 < c.regulation then c.regulation.toNat else c.sub
      hold := if c.time.minute % 10 = 0 ∧ c.regulation < 0 then c.regulation.natAbs else c.hold } := by
  unfold Calendar.regulate
  by_cases boundary : c.time.minute % 10 = 0
  · rcases lt_trichotomy c.regulation 0 with below | zero | above
    · simp [boundary, below, not_lt_of_gt below]
    · simp [boundary, zero.not_lt, zero.not_gt]
    · simp [boundary, above, not_lt_of_gt above]
  · simp [boundary]

/-- The hold at its end is the same whether one of its steps has passed or not (R149). -/
theorem Calendar.endHold_tick (h : 0 < c.hold) : c.tick.endHold = c.endHold := by
  rw [Calendar.tick_of_hold h]
  rfl

end

section
variable {s : State}

/-- When the calendar counts (R147, R159). -/
theorem State.counting_iff :
    s.counting = true ↔ s.supply.state ≠ .unpowered ∧ (s.supply.state = .starting → s.supply.mark = true) := by
  unfold State.counting
  split <;> simp_all

theorem exec_timebaseStep (counts : s.counting = true) :
    exec .timebaseStep s = .next { s with calendar := s.calendar.tick } :=
  congrArg Host.Outcome.next (if_pos counts)

theorem exec_regulationHoldEnd (counts : s.counting = true) :
    exec .regulationHoldEnd s = .next { s with calendar := s.calendar.endHold } :=
  congrArg Host.Outcome.next (if_pos counts)

/-- A run goes on from the state that its first step leaves. -/
theorem run_of_step {M : Host.Core} {t t' : M.State} {n : Nat} (h : M.step t = .next t') : M.run (n + 1) t = M.run n t' := by
  simp only [Host.Core.run, h]

/-- As many timebase steps as the hold still counts end it, one at a time (R149). -/
theorem run_timebaseSteps (n : Nat) (counts : s.counting = true) (hold : s.calendar.hold = n) :
    core.run n (s.withQueue (.replicate n .timebaseStep)) =
      .next (State.withQueue { s with calendar := s.calendar.endHold } []) := by
  induction n generalizing s with
  | zero =>
    have ended : s.calendar.endHold = s.calendar := by rw [Calendar.endHold, ← hold]
    rw [ended]
    rfl
  | succ n ih =>
    have held : 0 < s.calendar.hold := by omega
    have first : core.step (s.withQueue (.replicate (n + 1) .timebaseStep)) =
        .next (State.withQueue { s with calendar := s.calendar.tick } (.replicate n .timebaseStep)) :=
      exec_timebaseStep (s := s.withQueue (.replicate n .timebaseStep)) counts
    have rest := ih (s := { s with calendar := s.calendar.tick }) counts (by simp [Calendar.tick_of_hold held, hold])
    rw [Calendar.endHold_tick held] at rest
    exact (run_of_step first).trans rest

end

/-- Settles O32: each case of a step is an equation of `Calendar.tick`, and the end of the hold is its steps one by one. -/
theorem calendarCounts : Obligations.CalendarCounts := by
  refine ⟨fun s sound => ?_, fun s queue counts => ⟨exec_regulationHoldEnd counts, ?_⟩⟩
  · intro c counts last stepped
    obtain ⟨valid, minute, -⟩ := sound
    have isCounting : s.counting = true ↔ counts := State.counting_iff
    have isLast : c.time.lastMinute = true ↔ last := DateTime.lastMinute_iff
    have steps {c' : Calendar} (counting : counts) (h : c.tick = c') : stepped c' :=
      h ▸ exec_timebaseStep (isCounting.2 counting)
    refine ⟨fun still => congrArg Host.Outcome.next (if_neg (mt isCounting.1 still)),
      fun counting held => steps counting (Calendar.tick_of_hold held),
      fun counting free short => steps counting (Calendar.tick_of_count free short),
      fun counting free full second => steps counting ?_, fun counting free full second atEnd => steps counting ?_,
      fun counting free full second inside => ?_⟩
    · rw [Calendar.tick_of_wrap free full]
      exact Calendar.rollover_of_second second
    · rw [Calendar.tick_of_wrap free full]
      exact Calendar.rollover_of_last second (isLast.2 atEnd)
    · have inside : c.time.lastMinute = false := by simpa using mt isLast.1 inside
      refine ⟨c.time.nextMinute, DateTime.valid_nextMinute valid inside, DateTime.nextMinute_second _,
        (DateTime.districtMinute_nextMinute valid).trans (congrArg (· + 1) minute.symm), steps counting ?_⟩
      rw [Calendar.tick_of_wrap free full, Calendar.rollover_of_minute (c := { c with sub := 0 }) second inside,
        Calendar.regulate_eq]
      simp only [Calendar.advanceMinute, free]
  · rw [exec_regulationHoldEnd counts]
    have run := run_timebaseSteps _ counts rfl
    rw [State.withQueue, ← queue] at run
    exact run

end Sys2Proof.Machine

/-! # The lines stay sound and in agreement with the engine -/

namespace Sys2Proof.Machine

/-! ## What an event of a line leaves of its agreement with the engine -/

/-- What a line and the engine know of each other: the take marker, and what is on its way to the line (R161, R162). -/
def Line.exchange (l : Line) : TakeMarker × List LineItem := (l.take, l.inFlight)

/-- An event at a line that does not concern the engine: a sound line stays sound, a take stays under way or not, and as many
deliveries and reads are on their way as before. -/
structure Line.Keeps (l l' : Line) : Prop where
  wf         : l.wf → l'.wf
  take       : l'.take = .none ↔ l.take = .none
  deliveries : l'.inFlight.countP LineItem.isDelivery = l.inFlight.countP LineItem.isDelivery
  reads      : l'.inFlight.countP (fun i => i == .read) = l.inFlight.countP (fun i => i == .read)

theorem Line.Keeps.agrees {l l' : Line} {n : LineNo} {held : Option Hold} (h : l.Keeps l') (agrees : l.agrees n held) :
    l'.agrees n held := by
  obtain ⟨take, deliveries, reads⟩ := agrees
  exact ⟨(not_congr h.take).trans take, h.deliveries.trans deliveries, h.reads.trans reads⟩

theorem Line.Keeps.trans {a b c : Line} (h : a.Keeps b) (g : b.Keeps c) : a.Keeps c :=
  ⟨g.wf ∘ h.wf, g.take.trans h.take, g.deliveries.trans h.deliveries, g.reads.trans h.reads⟩

theorem Line.keeps_of_exchange {l l' : Line} (same : l'.exchange = l.exchange) (wf : l.wf → l'.wf) : l.Keeps l' := by
  obtain ⟨take, inFlight⟩ : l'.take = l.take ∧ l'.inFlight = l.inFlight := by simpa [Line.exchange] using same
  exact ⟨wf, by rw [take], by rw [inFlight], by rw [inFlight]⟩

section
variable (l : Line)

theorem Line.keeps_advance (elapsed : Nat) : l.Keeps (l.advance elapsed) :=
  Line.keeps_of_exchange rfl fun h => Line.wf_advance h elapsed

theorem Line.exchange_hears (start : Option Nat) : (l.hears start).exchange = l.exchange := by
  rw [Line.hears_eq]; rfl

theorem Line.keeps_begin (start : Option Nat) : l.Keeps (l.begin start) := by
  refine Line.keeps_of_exchange ?_ fun h => Line.wf_begin h start
  have heard := l.exchange_hears start
  unfold Line.begin
  dsimp only
  split
  · exact heard
  · split <;> exact heard

theorem Line.keeps_finish : l.Keeps l.finish := by
  refine Line.keeps_of_exchange ?_ Line.wf_finish
  unfold Line.finish
  split
  · rfl
  · split <;> rfl

theorem Line.keeps_silent (start : Option Nat) : l.Keeps (l.silent start) := by
  refine Line.keeps_of_exchange ?_ fun h => Line.wf_silent h start
  have gap : l.gap.exchange = l.exchange := by unfold Line.gap; split <;> rfl
  unfold Line.silent
  split
  · exact (Line.exchange_hears _ start).trans gap
  · exact l.exchange_hears start

theorem Line.keeps_character (b : Byte) (parityBit stopBit : Bool) : l.Keeps (l.character b parityBit stopBit) := by
  refine Line.keeps_of_exchange ?_ fun h => Line.wf_character h b parityBit stopBit
  have before : l.beforeStart.exchange = l.exchange := by rw [Line.beforeStart_keeps]; rfl
  have assembled : (l.beforeStart.assemble b).exchange = l.beforeStart.exchange := by rw [Line.assemble_keeps]; rfl
  unfold Line.character
  split
  · rfl
  · dsimp only
    split
    · exact before
    · exact assembled.trans before

theorem Line.settle_inFlight (new : Settings) : (l.settle new).inFlight = l.inFlight := by
  by_cases same : l.settings = new
  · rw [Line.settle_same same]
  · rw [Line.settle_other same]

/-- A settings command lets a take become STALE, not end (R161). -/
theorem Line.keeps_settle (new : Settings) : l.Keeps (l.settle new) := by
  by_cases same : l.settings = new
  · rw [Line.settle_same same]
    exact Line.keeps_of_exchange rfl id
  · have wf (h : l.wf) := Line.wf_settle h new
    rw [Line.settle_other same] at wf ⊢
    exact ⟨wf, by simp, rfl, rfl⟩

theorem Line.keeps_stopped : l.Keeps l.stopped := Line.keeps_of_exchange rfl Line.wf_stopped

/-- The entry to RUNNING counts a line's quiet time anew (R174). -/
theorem Line.keeps_quiet : l.Keeps { l with quiet := 0, looking := 0 } :=
  Line.keeps_of_exchange rfl fun ⟨inbound, outbound, take, off, _, half, assembler⟩ =>
    ⟨inbound, outbound, take, off, fun _ => Nat.zero_le _, half, assembler⟩

end

/-- A settings command on its way is neither a delivery nor a read. -/
theorem Line.keeps_arrived {l : Line} {new : Settings} {rest : List LineItem} (h : l.inFlight = .settings new :: rest) :
    l.Keeps l.arrived where
  wf := id
  take := Iff.rfl
  deliveries := by simp [Line.arrived, h, LineItem.isDelivery]
  reads := by simp [Line.arrived, h]

/-! ## The lines of a state -/

/-- The line at which what the engine holds ends (R31, R173). -/
def Hold.line : Hold → Option LineNo
  | .lineReport n => some n
  | .message n => some n
  | .timeLoad _ _ => none
  | .align => none
  | .regulation _ => none
  | .maskWrite _ => none

/-- What the engine holds concerns none of the lines but `n`. -/
def OnlyAt (n : LineNo) (held : Option Hold) : Prop := ∀ m ≠ n, held.bind Hold.line ≠ some m

theorem onlyAt_none (n : LineNo) : OnlyAt n none := nofun

theorem onlyAt_some {n : LineNo} {hold : Hold} (h : hold.line = some n) : OnlyAt n (some hold) :=
  fun m elsewhere => by simpa [h] using elsewhere.symm

/-- A line that the engine's hold does not concern agrees with it as with an idle engine. -/
theorem Line.agrees_of_elsewhere {l : Line} {n : LineNo} {held : Option Hold} (h : held.bind Hold.line ≠ some n) :
    l.agrees n held ↔ l.agrees n none := by
  have message : held ≠ some (.message n) := by rintro rfl; exact h rfl
  have report : held ≠ some (.lineReport n) := by rintro rfl; exact h rfl
  simp only [Line.agrees, message, report, reduceCtorEq]

section
variable {s s' : State}

theorem State.linesWf_iff : s.linesWf ↔ ∀ n, (s.lines.get n).wf ∧ (s.lines.get n).agrees n s.hold :=
  ⟨fun h n => h n (mem_lineNos n), fun h n _ => h n⟩

theorem State.linesWf_of_eq (hw : s.linesWf) (lines : s'.lines = s.lines) (hold : s'.hold = s.hold) : s'.linesWf := by
  simpa only [State.linesWf, lines, hold] using hw

/-- The engine comes to hold something else, which concerns no line, nor does what it held. -/
theorem State.linesWf_of_lines (hw : s.linesWf) (lines : s'.lines = s.lines) (before : s.hold.bind Hold.line = none)
    (after : s'.hold.bind Hold.line = none) : s'.linesWf := by
  intro n hn
  obtain ⟨wf, agrees⟩ := hw n hn
  rw [lines, Line.agrees_of_elsewhere (by simp [after])]
  exact ⟨wf, (Line.agrees_of_elsewhere (by simp [before])).1 agrees⟩

/-- Line `n` changes together with what the engine holds for it. -/
theorem State.linesWf_exchange {n : LineNo} (hw : s.linesWf) (before : OnlyAt n s.hold) (after : OnlyAt n s'.hold)
    {l : Line} (lines : s'.lines = s.lines.put n l) (wf : l.wf) (agrees : l.agrees n s'.hold) : s'.linesWf := by
  refine State.linesWf_iff.2 fun m => ?_
  rw [lines]
  by_cases here : m = n
  · subst here
    rw [Lines.get_put_same]
    exact ⟨wf, agrees⟩
  · obtain ⟨wf', agrees'⟩ := State.linesWf_iff.1 hw m
    rw [Lines.get_put_other _ here, Line.agrees_of_elsewhere (after m here)]
    exact ⟨wf', (Line.agrees_of_elsewhere (before m here)).1 agrees'⟩

theorem State.linesWf_withLine {n : LineNo} {l : Line} (hw : s.linesWf) (keeps : (s.lines.get n).Keeps l) :
    (s.withLine n l).linesWf := by
  refine State.linesWf_iff.2 fun m => ?_
  have old := State.linesWf_iff.1 hw
  rw [State.withLine_lines]
  by_cases here : m = n
  · subst here
    obtain ⟨wf, agrees⟩ := old m
    rw [Lines.get_put_same]
    exact ⟨keeps.wf wf, keeps.agrees agrees⟩
  · rw [Lines.get_put_other _ here]
    exact old m

theorem State.linesWf_map {f : Line → Line} (hw : s.linesWf) (keeps : ∀ l : Line, l.Keeps (f l))
    (lines : s'.lines = s.lines.map f) (hold : s'.hold = s.hold) : s'.linesWf := by
  refine State.linesWf_iff.2 fun n => ?_
  obtain ⟨wf, agrees⟩ := State.linesWf_iff.1 hw n
  rw [lines, hold, Lines.get_map]
  exact ⟨(keeps _).wf wf, (keeps _).agrees agrees⟩

/-- Lines with their start values agree with an idle engine (R174). -/
theorem State.linesWf_started (idle : s.hold = none) (settings : LineNo → Settings)
    (lines : s.lines = .of fun n => .started (settings n)) : s.linesWf := by
  refine State.linesWf_iff.2 fun n => ?_
  have get : s.lines.get n = .started (settings n) := by rw [lines]; cases n <;> rfl
  rw [get, idle]
  exact ⟨Line.wf_started _, by simp [Line.agrees, Line.started]⟩


/-! ### The endings of a command -/

theorem State.answer_linesWf {work : Handled} (hw : s.linesWf) (h : s.answer work = .next s') : s'.linesWf := by
  cases work with
  | none => cases h
  | some left =>
    cases h
    exact State.linesWf_of_eq hw (State.deliver_lines ..) (State.deliver_hold ..)

/-- A request of no line is held by an engine that was idle (R27, R31). -/
theorem State.holdPort_linesWf {q : Request} {hold : Hold} (hw : s.linesWf) (granted : s.grantedRequest = some q)
    (noLine : hold.line = none) : (s.holdPort hold).linesWf := by
  obtain ⟨-, -, idle, -⟩ := State.grant_spec (State.grantedRequest_spec granted).1
  exact State.linesWf_of_lines hw rfl (by simp [idle]) noLine

/-- A request of no line completes. -/
theorem State.complete_linesWf {hold : Hold} {acted : State} (hw : s.linesWf) (holds : s.hold = some hold)
    (noLine : hold.line = none) (lines : acted.lines = s.lines) (r : Response) : (acted.complete r).linesWf :=
  State.linesWf_of_lines hw ((State.complete_lines ..).trans lines) (by simp [holds, noLine]) (by simp)

/-- A settings command on its way to a line is not counted by the engine (R161). -/
theorem State.linesWf_send_settings (hw : s.linesWf) (n : LineNo) (new : Settings) : (s.send n (.settings new)).linesWf :=
  State.linesWf_withLine hw ⟨id, Iff.rfl, by simp [LineItem.isDelivery], by simp⟩

/-- A read command is on its way to a line, and the engine holds READ LINE until it has been answered (R173). -/
theorem State.linesWf_send_read {hold : Hold} (hw : s.linesWf) (idle : s.hold = none) (n : LineNo)
    (report : hold = .lineReport n) : ((s.send n .read).holdPort hold).linesWf := by
  subst report
  obtain ⟨wf, take, deliveries, reads⟩ := State.linesWf_iff.1 hw n
  refine State.linesWf_exchange hw (idle ▸ onlyAt_none n) (onlyAt_some rfl) rfl (by exact wf) ?_
  rw [idle] at take deliveries reads
  exact ⟨by simpa using take, by simpa [LineItem.isDelivery] using deliveries, by simpa using reads⟩

/-! ### A message taken, its delivery, and the report of a line -/

theorem Line.wf_takeEnded {l : Line} (h : l.wf) : ({ l with take := .none } : Line).wf := by
  obtain ⟨inbound, outbound, -, off, quiet, half, assembler⟩ := h
  refine ⟨inbound, outbound, nofun, fun isOff => ?_, quiet, half, assembler⟩
  obtain ⟨noMessage, noReply, idle, hunts, -⟩ := off isOff
  exact ⟨noMessage, noReply, idle, hunts, nofun⟩

/-- A message is taken from a line that has room for its reply, which an OFF line cannot be asked for (R28, R31, R162). -/
theorem Line.wf_taken {l : Line} (h : l.wf) (message : l.inbound ≠ []) (room : l.outbound.length < Config.lineQueue)
    (items : List LineItem) :
    ({ l with inbound := l.inbound.tail, take := .current, inFlight := items } : Line).wf := by
  obtain ⟨inbound, outbound, -, off, quiet, half, assembler⟩ := h
  refine ⟨?_, outbound, fun _ => room, fun isOff => absurd (off isOff).1 message, quiet, half, assembler⟩
  simp only [List.length_tail]
  omega

theorem State.handle_linesWf {n : LineNo} {m : Message} {work : MessageWork} (hw : s.linesWf)
    (granted : s.grantedMessage = some (n, m)) (h : s.handle n work = .next s') : s'.linesWf := by
  obtain ⟨-, -, idle, ready⟩ := State.grant_spec (State.grantedMessage_spec granted).1
  obtain ⟨message, room⟩ := State.ready_line.1 ready
  obtain ⟨wf, take, deliveries, reads⟩ := State.linesWf_iff.1 hw n
  have before : OnlyAt n s.hold := idle ▸ onlyAt_none n
  rw [idle] at take deliveries reads
  match work with
  | none => cases h
  | some (e, none) =>
    rw [State.handle_silent] at h
    cases h
    have silenced := Line.wf_takeEnded (Line.wf_taken wf message room (s.lines.get n).inFlight)
    exact State.linesWf_exchange hw before before rfl silenced
      ⟨by simp [State.silenced, idle], by simpa [State.silenced, idle] using deliveries,
        by simpa [State.silenced, idle] using reads⟩
  | some (e, some d) =>
    rw [State.handle_reply] at h
    cases h
    refine State.linesWf_exchange hw before (onlyAt_some rfl) rfl (Line.wf_taken wf message room _) ⟨?_, ?_, ?_⟩
    · simp [State.sending]
    · simpa [State.sending, LineItem.isDelivery] using deliveries
    · simpa [State.sending] using reads

/-- Whatever a line makes of a delivery, the take has ended and the rest of the way stands (R162). -/
theorem Line.receive_exchange (l : Line) (d : Delivery) : (l.receive d).exchange = (.none, l.inFlight) := by
  by_cases current : l.take = .current
  · cases d with
    | reply r => rw [Line.receive_reply current]; rfl
    | mark x => rw [Line.receive_mark current]; rfl
  · rw [Line.receive_stale current]; rfl

/-- A delivery reaches its line, which takes it or not, and the engine is idle (R31, R162, R174). -/
theorem execLineDelivery_linesWf {n : LineNo} (hw : s.linesWf) (h : execLineDelivery n s = .next s') : s'.linesWf := by
  unfold execLineDelivery at h
  split at h <;> cases h
  next d rest way =>
    have holds := State.hold_of_delivery hw way
    obtain ⟨wf, -, deliveries, reads⟩ := State.linesWf_iff.1 hw n
    simp only [holds, way, List.countP_cons, LineItem.isDelivery, if_true] at deliveries reads
    refine State.linesWf_exchange hw (holds ▸ onlyAt_some rfl) (onlyAt_none n) rfl ?_ ?_
    · split
      · exact Line.wf_receive wf d
      · exact Line.wf_takeEnded (l := s.lines.get n) wf
    · have ended (l : Line) (h : l.exchange = (.none, (s.lines.get n).inFlight)) : l.arrived.agrees n none := by
        obtain ⟨take, inFlight⟩ : l.take = .none ∧ l.inFlight = (s.lines.get n).inFlight := by simpa [Line.exchange] using h
        rw [way] at inFlight
        exact ⟨by simp [Line.arrived, take], by simpa [Line.arrived, inFlight] using deliveries,
          by simpa [Line.arrived, inFlight] using reads⟩
      split
      · exact ended _ (Line.receive_exchange ..)
      · exact ended _ rfl
  next => exact hw

/-- The read command reaches its line, whose report completes READ LINE (R173). -/
theorem execReadCommand_linesWf {n : LineNo} {elapsed : Nat} (hw : s.linesWf) (h : execReadCommand n elapsed s = .next s') :
    s'.linesWf := by
  unfold execReadCommand at h
  split at h <;> cases h
  next rest way =>
    have holds := State.hold_of_read hw way
    obtain ⟨wf, take, deliveries, reads⟩ := State.linesWf_iff.1 hw n
    simp only [holds, way, List.countP_cons, LineItem.isDelivery, if_true] at take deliveries reads
    have reported : ({ (s.lines.get n).advance elapsed with flags := .clear } : Line).arrived.wf := Line.wf_advance wf elapsed
    refine State.linesWf_exchange (n := n) hw (holds ▸ onlyAt_some rfl) ?_ ?_ reported ?_
    · rw [State.complete_hold]; exact onlyAt_none n
    · rw [State.complete_lines]; rfl
    · rw [State.complete_hold]
      exact ⟨by simpa [Line.arrived] using take, by simpa [Line.arrived, way] using deliveries,
        by simpa [Line.arrived, way] using reads⟩
  next => exact hw

/-- A settings command reaches its line; it is no affair of the engine any more (R161). -/
theorem execSettingsCommand_linesWf {n : LineNo} {elapsed : Nat} (hw : s.linesWf)
    (h : execSettingsCommand n elapsed s = .next s') : s'.linesWf := by
  unfold execSettingsCommand at h
  split at h <;> cases h
  next new rest way =>
    have settled := ((s.lines.get n).keeps_advance elapsed).trans (Line.keeps_settle _ new)
    have inFlight : (((s.lines.get n).advance elapsed).settle new).inFlight = .settings new :: rest := by
      rw [Line.settle_inFlight]
      exact way
    exact State.linesWf_withLine hw (settled.trans (Line.keeps_arrived inFlight))
  next => exact hw

/-! ### Stops, starts and restarts -/

theorem State.linesWf_stop (hw : s.linesWf) : s.stop.linesWf := State.linesWf_map hw Line.keeps_stopped rfl rfl

theorem State.linesWf_orUnpowered {holds : Bool} (hw : s.linesWf) : (s.orUnpowered holds).linesWf := by
  cases holds
  · exact State.linesWf_started rfl (fun _ => .cold) rfl
  · exact hw

theorem State.linesWf_retained (s : State) (settings : LineNo → Settings) : (s.retained settings).linesWf :=
  State.linesWf_started rfl settings rfl

theorem execMainSupplyGoodRise_linesWf {failWarning cellLow : Bool} (hw : s.linesWf)
    (h : execMainSupplyGoodRise failWarning cellLow s = .next s') : s'.linesWf := by
  have started (s : State) : (s.starting cellLow).linesWf := State.linesWf_started rfl (fun n => (s.lines.get n).settings) rfl
  unfold execMainSupplyGoodRise at h
  split at h
  case h_4 | h_5 =>
    cases h
    cases failWarning
    · exact started _
    · exact State.linesWf_stop (started _)
  all_goals
    cases h
    exact hw

theorem execMainSupplyGoodFall_linesWf {fall : SupplyFall} (hw : s.linesWf) (h : execMainSupplyGoodFall fall s = .next s') :
    s'.linesWf := by
  unfold execMainSupplyGoodFall at h
  split at h
  case h_1 | h_2 => cases h; exact hw
  case h_3 => cases h; exact State.linesWf_orUnpowered (State.linesWf_retained _ _)
  case h_4 | h_5 => split at h <;> cases h <;> exact State.linesWf_orUnpowered (State.linesWf_retained _ _)

theorem execStartComplete_linesWf (hw : s.linesWf) (h : execStartComplete s = .next s') : s'.linesWf := by
  unfold execStartComplete at h
  split at h <;> cases h
  case h_1 => exact State.linesWf_map hw Line.keeps_quiet rfl rfl
  all_goals exact hw

theorem execFailWarningRise_linesWf (hw : s.linesWf) (h : execFailWarningRise s = .next s') : s'.linesWf := by
  unfold execFailWarningRise at h
  split at h <;> cases h
  case h_1 | h_2 => exact State.linesWf_stop hw
  all_goals exact hw

/-- A restart waits until the engine is idle, so that nothing on its way to a line is lost but settings (R188). -/
theorem execResetRestart_linesWf (hw : s.linesWf) (h : execResetRestart s = .next s') : s'.linesWf := by
  obtain rfl := Host.Outcome.next.inj h
  split
  next waits =>
    have idle : s.hold = none := by simp at waits; exact waits.2
    refine State.linesWf_iff.2 fun n => ?_
    obtain ⟨-, take, deliveries, reads⟩ := State.linesWf_iff.1 hw n
    rw [idle] at deliveries reads
    simp only [Lines.get_map, idle]
    exact ⟨Line.wf_started _, by simp [Line.restarted, Line.started], deliveries, reads⟩
  next => exact hw

/-! ### Every command -/

/-- A command that acts on a condition, and is otherwise out of turn. -/
theorem linesWf_of_next_ite {c : Prop} [Decidable c] {a : State} (hw : s.linesWf) (h : Host.Outcome.next (if c then a else s) =
    (.next s' : Host.Outcome State Fault Refusal)) (ha : a.linesWf) : s'.linesWf := by
  obtain rfl := Host.Outcome.next.inj h
  split
  · exact ha
  · exact hw

theorem exec_linesWf {c : Instr} (hw : s.linesWf) (h : exec c s = .next s') : s'.linesWf := by
  have advanced (n : LineNo) (elapsed : Nat) := (s.lines.get n).keeps_advance elapsed
  cases c
  -- requests that are answered in one step
  case enrolKit | lookupKit | suspendKit | resumeKit | setKitKey | retireKit | definePlan | amendPlan | readPlan | releasePlan
    | pay | confirm | reverse | openAgent | amendAgent | readAgent | barAgent | unbarAgent | closeAgent | clearWatermark
    | tableSummary | readTime | readAttention =>
    simp only [exec, execEnrolKit, execLookupKit, execSuspendKit, execResumeKit, execSetKitKey, execRetireKit,
      execDefinePlan, execAmendPlan, execReadPlan, execReleasePlan, execPay, execConfirm, execReverse, execOpenAgent,
      execAmendAgent, execReadAgent, execBarAgent, execUnbarAgent, execCloseAgent, execClearWatermark, execTableSummary,
      execReadTime, execReadAttention] at h
    split at h
    · exact State.answer_linesWf hw h
    · cases h; exact hw
  case movePlan | takeNotices | nextDue =>
    simp only [exec, execMovePlan, execTakeNotices, execNextDue] at h
    split at h
    · split at h <;> exact State.answer_linesWf hw h
    · cases h; exact hw
  case unknownRequestKind =>
    simp only [exec, execUnknownRequestKind] at h
    split at h
    · cases h; exact hw
    · split at h
      · cases h; exact hw
      · exact State.answer_linesWf hw h
  -- requests that the engine may go on holding
  case setTime | alignMinute | setAttentionMask =>
    simp only [exec, execSetTime, execAlignMinute, execSetAttentionMask] at h
    split at h
    next granted =>
      split at h
      · exact State.answer_linesWf hw h
      · cases h; exact State.holdPort_linesWf hw granted rfl
    next => cases h; exact hw
  case setRegulation =>
    simp only [exec, execSetRegulation] at h
    split at h
    next granted =>
      split at h
      · cases h; exact State.holdPort_linesWf hw granted rfl
      · exact State.answer_linesWf hw h
    next => cases h; exact hw
  -- requests that send something to a line
  case setLine =>
    simp only [exec, execSetLine] at h
    split at h
    · split at h
      · exact State.answer_linesWf (State.linesWf_send_settings hw _ _) h
      · exact State.answer_linesWf hw h
    · cases h; exact hw
  case readLine =>
    simp only [exec, execReadLine] at h
    split at h
    next granted =>
      split at h
      · cases h
        obtain ⟨-, -, idle, -⟩ := State.grant_spec (State.grantedRequest_spec granted).1
        exact State.linesWf_send_read hw idle _ rfl
      · exact State.answer_linesWf hw h
    next => cases h; exact hw
  -- line messages, passes and frames
  case checkIn | topUp | status =>
    simp only [exec, execCheckIn, execTopUp, execStatus] at h
    split at h
    next granted => exact State.handle_linesWf hw granted h
    next => cases h; exact hw
  case expiryPass | settlementPass =>
    simp only [exec, execExpiryPass, execSettlementPass, State.passOver] at h
    split at h
    · split at h <;> cases h
      exact State.linesWf_of_eq hw rfl rfl
    · cases h; exact hw
  case requestFrame =>
    rw [execRequestFrame_eq h]
    exact State.linesWf_of_eq hw rfl rfl
  case readFrame =>
    obtain rfl := Host.Outcome.next.inj h
    rw [State.readAny_eq]
    exact State.linesWf_of_eq hw rfl rfl
  -- events of the calendar and of the lines
  case timebaseStep | regulationHoldEnd => exact linesWf_of_next_ite hw h (State.linesWf_of_eq hw rfl rfl)
  case receiveCharacter n elapsed _ _ _ =>
    exact linesWf_of_next_ite hw h (State.linesWf_withLine hw ((advanced n elapsed).trans (Line.keeps_character ..)))
  case gapTimeout n time =>
    exact linesWf_of_next_ite hw h (State.linesWf_withLine hw ((advanced n time.elapsed).trans (Line.keeps_silent ..)))
  case replyBegin n time =>
    exact linesWf_of_next_ite hw h (State.linesWf_withLine hw ((advanced n time.elapsed).trans (Line.keeps_begin ..)))
  case replyEnd n elapsed =>
    exact linesWf_of_next_ite hw h (State.linesWf_withLine hw ((advanced n elapsed).trans (Line.keeps_finish _)))
  -- arrivals
  case timeLoad | alignCommand | regulationWrite | maskWrite =>
    simp only [exec, execTimeLoad, execAlignCommand, execRegulationWrite, execMaskWrite] at h
    split at h <;> cases h
    next holds => exact State.complete_linesWf hw holds rfl (by rfl) _
    next => exact hw
  case settingsCommand => exact execSettingsCommand_linesWf hw h
  case readCommand => exact execReadCommand_linesWf hw h
  case lineDelivery => exact execLineDelivery_linesWf hw h
  -- the supply and the reset input
  case mainSupplyGoodRise => exact execMainSupplyGoodRise_linesWf hw h
  case startComplete => exact execStartComplete_linesWf hw h
  case failWarningRise => exact execFailWarningRise_linesWf hw h
  case mainSupplyGoodFall => exact execMainSupplyGoodFall_linesWf hw h
  case backupBelowRetention => exact linesWf_of_next_ite hw h (State.linesWf_started rfl (fun _ => .cold) rfl)
  case backupLowChange =>
    simp only [exec, execBackupLowChange] at h
    split at h <;> cases h <;> exact State.linesWf_of_eq hw rfl rfl
  case resetAssert => exact linesWf_of_next_ite hw h (State.linesWf_of_eq hw rfl rfl)
  case resetRestart => exact execResetRestart_linesWf hw h

end

/-- Settles O59: an event of a line keeps it sound, and what is sent to a line or arrives there changes with the hold. -/
theorem linesStayCoherent : Obligations.LinesStayCoherent := fun _ _ _ hw h => exec_linesWf hw h

end Sys2Proof.Machine

/-! # Messages on a line -/

namespace Sys2Proof.Machine

/-! ## Numbers as bytes, least significant first (R190) -/

@[simp] theorem bytesLE_length (width v : Nat) : (bytesLE width v).length = width := by
  induction width generalizing v with
  | zero => rfl
  | succ width ih => simp [bytesLE, ih]

theorem ofLE_bytesLE {width v : Nat} (fits : v < 256 ^ width) : ofLE (bytesLE width v) = v := by
  induction width generalizing v with
  | zero =>
    have zero : v = 0 := by simpa using fits
    rw [zero]
    rfl
  | succ width ih =>
    have rest : v / 256 < 256 ^ width := Nat.div_lt_of_lt_mul (by rwa [Nat.mul_comm, ← Nat.pow_succ])
    have low : (BitVec.ofNat 8 v).toNat = v % 256 := BitVec.toNat_ofNat v 8
    rw [bytesLE, ofLE, ih rest, low]
    omega

theorem ofLE_lt (bytes : List Byte) : ofLE bytes < 256 ^ bytes.length := by
  induction bytes with
  | nil => simp [ofLE]
  | cons b rest ih =>
    have := b.isLt
    simp only [ofLE, List.length_cons, Nat.pow_succ]
    omega

theorem bytesLE_ofLE (bytes : List Byte) : bytesLE bytes.length (ofLE bytes) = bytes := by
  induction bytes with
  | nil => rfl
  | cons b rest ih =>
    have high : (b.toNat + 256 * ofLE rest) / 256 = ofLE rest := by have := b.isLt; omega
    have low : BitVec.ofNat 8 (b.toNat + 256 * ofLE rest) = b := by
      apply BitVec.eq_of_toNat_eq
      have := b.isLt
      rw [BitVec.toNat_ofNat]
      omega
    simp only [List.length_cons, ofLE, bytesLE, high, low, ih]

/-- Spells numbers in the given widths, least significant byte first. -/
def writeLE : List Nat → List Nat → List Byte
  | w :: ws, v :: vs => bytesLE w v ++ writeLE ws vs
  | _, _ => []

/-- Numbers that fit their widths are read as they were written. -/
theorem readLE_writeLE {widths values : List Nat} (fits : List.Forall₂ (fun v w => v < 256 ^ w) values widths) :
    readLE widths (writeLE widths values) = values := by
  induction fits with
  | nil => rfl
  | cons first _ ih =>
    rw [writeLE, readLE, List.take_left' (bytesLE_length ..), List.drop_left' (bytesLE_length ..), ofLE_bytesLE first, ih]

/-- A run of bytes is spelled by the numbers cut from it, each of which fits its width. -/
theorem writeLE_readLE {widths : List Nat} {bytes : List Byte} (whole : bytes.length = widths.sum) :
    writeLE widths (readLE widths bytes) = bytes ∧
      List.Forall₂ (fun v w => v < 256 ^ w) (readLE widths bytes) widths := by
  induction widths generalizing bytes with
  | nil =>
    obtain rfl : bytes = [] := by simpa using whole
    exact ⟨rfl, .nil⟩
  | cons w ws ih =>
    simp only [List.sum_cons] at whole
    have taken : (bytes.take w).length = w := by simp; omega
    obtain ⟨spelled, fit⟩ := ih (bytes := bytes.drop w) (by simp; omega)
    have first := bytesLE_ofLE (bytes.take w)
    have bound := ofLE_lt (bytes.take w)
    rw [taken] at first bound
    exact ⟨by rw [readLE, writeLE, first, spelled, List.take_append_drop], .cons bound fit⟩

/-! ## A message as numbers (R190) -/

/-- The kind byte of a message. -/
def Message.kind : Message → Byte
  | .checkIn _ => 0x31
  | .topUp _ => 0x41
  | .status _ => 0x43

/-- The widths of payload and keyed check of each kind. -/
def Message.widths : Message → List Nat
  | .checkIn _ => [4, 4, 2, 1, 4]
  | .topUp _ => [1, 4, 4, 4, 4]
  | .status _ => [1, 4, 4]

/-- The numbers of payload and keyed check. -/
def Message.values : Message → List Nat
  | .checkIn m => [m.kit, m.held, m.energy, m.flags.toNat, m.check.toNat]
  | .topUp m => [m.agent, m.kit, m.amount, m.reference, m.check.toNat]
  | .status m => [m.agent, m.kit, m.check.toNat]

/-- The bytes of payload and keyed check. -/
def Message.content (m : Message) : List Byte := writeLE m.widths m.values

theorem Message.bytes_eq (m : Message) :
    m.bytes = lineMarker :: BitVec.ofNat 8 (m.widths.sum + 1) :: m.kind :: m.content := by
  cases m <;> simp [Message.bytes, CheckInMsg.bytes, CheckInMsg.covered, TopUpMsg.bytes, TopUpMsg.covered, StatusMsg.bytes,
    StatusMsg.covered, Message.content, writeLE, bytesLE, Message.kind, Message.widths, Message.values]

theorem Message.fits_iff (m : Message) :
    m.fits = true ↔ List.Forall₂ (fun v w => v < 256 ^ w) m.values m.widths := by
  cases m with
  | checkIn m =>
    have := m.flags.isLt
    have := m.check.isLt
    simp [Message.fits, Message.values, Message.widths]
    omega
  | topUp m =>
    have := m.check.isLt
    simp [Message.fits, Message.values, Message.widths]
    omega
  | status m =>
    have := m.check.isLt
    simp [Message.fits, Message.values, Message.widths]
    omega

theorem Message.content_length (m : Message) : m.content.length = m.widths.sum := by
  cases m <;> simp [Message.content, Message.values, Message.widths, writeLE]

theorem Message.kindLength_kind (m : Message) : kindLength m.kind.toNat = some (m.widths.sum + 1) := by
  cases m <;> rfl

theorem Message.takenIn_kind (m : Message) : takenIn m.role m.kind.toNat = true := by
  cases m <;> rfl

/-- A message whose fields fit is read back from its bytes. -/
theorem messageOf_content {m : Message} (fits : m.fits = true) : messageOf (m.kind :: m.content) = some m := by
  have read : readLE m.widths m.content = m.values := readLE_writeLE (m.fits_iff.1 fits)
  cases m <;> simp only [Message.widths, Message.values] at read <;> simp [messageOf, Message.kind, read]

/-- Every number that fits so many bytes is the value of a word of that many bits. -/
theorem toNat_ofNat_of_fits {w v : Nat} (fits : v < 256 ^ w) : (BitVec.ofNat (8 * w) v).toNat = v := by
  rw [BitVec.toNat_ofNat, Nat.pow_mul]
  exact Nat.mod_eq_of_lt fits

theorem exists_checkIn {values : List Nat} (fit : List.Forall₂ (fun v w => v < 256 ^ w) values [4, 4, 2, 1, 4]) :
    ∃ m, (Message.checkIn m).values = values := by
  match values, fit with
  | [kit, held, energy, flags, check], .cons _ (.cons _ (.cons _ (.cons flagsFit (.cons checkFit .nil)))) =>
    refine ⟨⟨kit, held, energy, BitVec.ofNat 8 flags, BitVec.ofNat 32 check⟩, ?_⟩
    rw [Message.values, toNat_ofNat_of_fits (w := 1) flagsFit, toNat_ofNat_of_fits (w := 4) checkFit]

theorem exists_topUp {values : List Nat} (fit : List.Forall₂ (fun v w => v < 256 ^ w) values [1, 4, 4, 4, 4]) :
    ∃ m, (Message.topUp m).values = values := by
  match values, fit with
  | [agent, kit, amount, reference, check], .cons _ (.cons _ (.cons _ (.cons _ (.cons checkFit .nil)))) =>
    refine ⟨⟨agent, kit, amount, reference, BitVec.ofNat 32 check⟩, ?_⟩
    rw [Message.values, toNat_ofNat_of_fits (w := 4) checkFit]

theorem exists_status {values : List Nat} (fit : List.Forall₂ (fun v w => v < 256 ^ w) values [1, 4, 4]) :
    ∃ m, (Message.status m).values = values := by
  match values, fit with
  | [agent, kit, check], .cons _ (.cons _ (.cons checkFit .nil)) =>
    refine ⟨⟨agent, kit, BitVec.ofNat 32 check⟩, ?_⟩
    rw [Message.values, toNat_ofNat_of_fits (w := 4) checkFit]

/-- Bytes as many as the kind has are the content of a message of that kind, when a role takes the kind in. -/
theorem exists_message {role : Role} {kind : Byte} {n : Nat} {bytes : List Byte} (taken : takenIn role kind.toNat = true)
    (length : kindLength kind.toNat = some n) (whole : bytes.length + 1 = n) :
    ∃ m : Message, m.fits = true ∧ m.kind = kind ∧ m.content = bytes := by
  subst whole
  have spelled (m : Message) (same : m.kind = kind) (values : m.values = readLE m.widths bytes) :
      ∃ m : Message, m.fits = true ∧ m.kind = kind ∧ m.content = bytes := by
    have sum : bytes.length = m.widths.sum := by simpa [← same, m.kindLength_kind, eq_comm] using length
    obtain ⟨written, fit⟩ := writeLE_readLE sum
    rw [← values] at written fit
    exact ⟨m, m.fits_iff.2 fit, same, written⟩
  rcases (takenIn_iff role kind).1 taken with ⟨-, rfl⟩ | ⟨-, rfl | rfl⟩
  · obtain ⟨m, values⟩ := exists_checkIn (writeLE_readLE (Nat.succ.inj (Option.some.inj length)).symm).2
    exact spelled (.checkIn m) rfl values
  · obtain ⟨m, values⟩ := exists_topUp (writeLE_readLE (Nat.succ.inj (Option.some.inj length)).symm).2
    exact spelled (.topUp m) rfl values
  · obtain ⟨m, values⟩ := exists_status (writeLE_readLE (Nat.succ.inj (Option.some.inj length)).symm).2
    exact spelled (.status m) rfl values

/-! ## A message taken character by character (R165, R166, R168) -/

theorem kindLength_le {k n : Nat} (h : kindLength k = some n) : n ≤ 24 := by
  unfold kindLength at h
  split at h <;> simp_all <;> omega

section
variable {l : Line} {n : Nat} {b : Byte}

theorem Line.kindByte_unknown (h : kindLength b.toNat = none) :
    l.kindByte n b = { l with assembler := .hunt, flags := { l.flags with unknownKind := true } } := by
  simp only [Line.kindByte, h]

theorem Line.kindByte_badLength {k : Nat} (h : kindLength b.toNat = some k) (bad : n ≠ k) :
    l.kindByte n b = { l with assembler := .hunt, flags := { l.flags with badLength := true } } := by
  simp only [Line.kindByte, h, ne_eq, bad, not_false_eq_true, if_true]

theorem Line.kindByte_wrongRole (h : kindLength b.toNat = some n) (wrong : ¬takenIn l.settings.role b.toNat = true) :
    l.kindByte n b = { l with assembler := .skip (n - 1), flags := { l.flags with wrongRole := true } } := by
  simp only [Line.kindByte, h, ne_eq, not_true_eq_false, if_false, wrong, Bool.false_eq_true]

theorem Line.kindByte_taken (h : kindLength b.toNat = some n) (taken : takenIn l.settings.role b.toNat = true) :
    l.kindByte n b = { l with assembler := .body n [b] } := by
  simp only [Line.kindByte, h, ne_eq, not_true_eq_false, if_false, taken, if_true]

/-- A complete message joins a queue with a place free, and is else dropped with MESSAGE OVERRUN (R168). -/
theorem Line.offer_message {m : Message} {bytes : List Byte} (h : messageOf bytes = some m) :
    l.offer bytes = if l.inbound.length < 4 then { l with inbound := l.inbound ++ [m] }
      else { l with flags := { l.flags with messageOverrun := true } } := by
  simp only [Line.offer, h]
  rfl

/-- The bytes left of a message complete it, the last of them offering it to the queue. -/
theorem Line.foldl_assemble_body {x : Byte} {xs bytes : List Byte} (body : l.assembler = .body n (x :: xs))
    (whole : xs.length + 1 + bytes.length = n) (more : bytes ≠ []) :
    bytes.foldl Line.assemble l = ({ l with assembler := .hunt } : Line).offer (x :: xs ++ bytes) := by
  induction bytes generalizing l xs with
  | nil => exact absurd rfl more
  | cons b rest ih =>
    simp only [List.length_cons] at whole
    rw [List.foldl_cons]
    cases rest with
    | nil => exact Line.assemble_last body (by simp at whole; omega) b
    | cons c cs =>
      rw [Line.assemble_body body (by simp at whole; omega),
        ih (l := { l with assembler := .body n (x :: xs ++ [b]) }) (xs := xs ++ [b]) rfl (by simp at whole ⊢; omega)
          (by simp)]
      simp

/-- The bytes of a message, from its marker on, are offered to the queue of a hunting line (R165). -/
theorem Line.foldl_assemble {kind : Byte} {bytes : List Byte} (hunts : l.assembler = .hunt)
    (length : kindLength kind.toNat = some n) (taken : takenIn l.settings.role kind.toNat = true)
    (whole : bytes.length + 1 = n) :
    (lineMarker :: BitVec.ofNat 8 n :: kind :: bytes).foldl Line.assemble l = l.offer (kind :: bytes) := by
  have least := kindLength_ge length
  have most := kindLength_le length
  have sent : (BitVec.ofNat 8 n).toNat = n := by rw [BitVec.toNat_ofNat]; omega
  have hunting : ({ l with assembler := .hunt } : Line) = l := by rw [← hunts]
  rw [List.foldl_cons, Line.assemble_hunt hunts, if_pos rfl, List.foldl_cons, Line.assemble_length rfl, List.foldl_cons,
    Line.assemble_kind (n := n) (by rw [sent]), Line.kindByte_taken length (by exact taken),
    Line.foldl_assemble_body (x := kind) (xs := []) (by rfl) (by simp; omega) (by rintro rfl; simp at whole; omega)]
  exact congrArg (fun l : Line => l.offer (kind :: bytes)) hunting

/-- The last byte completes the message that the bytes taken and it spell, for a kind that the role takes in (R165, R168). -/
theorem Line.assemble_completes {kind : Byte} {rest : List Byte} (body : l.assembler = .body n (kind :: rest))
    (taken : takenIn l.settings.role kind.toNat = true) (length : kindLength kind.toNat = some n)
    (whole : rest.length + 2 = n) :
    ∃ m : Message, m.fits = true ∧ m.bytes = lineMarker :: BitVec.ofNat 8 n :: kind :: rest ++ [b] ∧
      l.assemble b = if l.inbound.length < 4 then { l with assembler := .hunt, inbound := l.inbound ++ [m] }
        else { l with assembler := .hunt, flags := { l.flags with messageOverrun := true } } := by
  obtain ⟨m, fits, rfl, content⟩ := exists_message (bytes := rest ++ [b]) taken length (by simp; omega)
  have sum : m.widths.sum + 1 = n := Option.some.inj (m.kindLength_kind.symm.trans length)
  refine ⟨m, fits, ?_, ?_⟩
  · rw [Message.bytes_eq, sum, content]
    rfl
  · have spelled : messageOf (m.kind :: rest ++ [b]) = some m := by
      rw [List.cons_append, ← content]
      exact messageOf_content fits
    rw [Line.assemble_last body (by omega), Line.offer_message spelled]

end

/-- Settles O7: a message is offered as its bytes are taken one by one, and each state of the assembler takes one byte. -/
theorem lineMessagesAssemble : Obligations.LineMessagesAssemble := by
  refine ⟨fun m l fits role hunts room => ?_, fun l b => ?_⟩
  · have taken : takenIn l.settings.role m.kind.toNat = true := role ▸ m.takenIn_kind
    rw [Message.bytes_eq, Line.foldl_assemble hunts m.kindLength_kind taken (by rw [Message.content_length]),
      Line.offer_message (messageOf_content fits), if_pos room]
  · intro lengths takes
    have length (kind : Byte) : kindLength kind.toNat = lengths.lookup kind := kindLength_eq_lookup kind
    have taken (kind : Byte) : takenIn l.settings.role kind.toNat = true ↔ takes kind := takenIn_iff _ kind
    refine ⟨fun hunts marker => ?_, fun hunts other => ?_, fun atLength => Line.assemble_length atLength b,
      fun n atKind => ⟨fun unknown => ?_, fun k known => ⟨fun bad => ?_, ?_, ?_⟩⟩,
      fun n kind rest body => ⟨fun short => Line.assemble_body body short b, fun takes known whole => ?_⟩,
      fun left skips => ⟨fun more => ?_, fun last => ?_⟩⟩
    · rw [Line.assemble_hunt hunts, if_pos (show b = lineMarker from marker)]
    · rw [Line.assemble_hunt hunts, if_neg (show b ≠ lineMarker from other)]
    · rw [Line.assemble_kind atKind, Line.kindByte_unknown ((length b).trans unknown)]
    · rw [Line.assemble_kind atKind, Line.kindByte_badLength ((length b).trans known) bad]
    · rintro rfl wrong
      rw [Line.assemble_kind atKind, Line.kindByte_wrongRole ((length b).trans known) (mt (taken b).1 wrong)]
    · rintro rfl takes
      rw [Line.assemble_kind atKind, Line.kindByte_taken ((length b).trans known) ((taken b).2 takes)]
    · obtain ⟨m, fits, bytes, completed⟩ :=
        Line.assemble_completes (b := b) body ((taken kind).2 takes) ((length kind).trans known) whole
      exact ⟨m, fits, bytes, fun room => completed.trans (if_pos room), fun full => completed.trans (if_neg (by omega))⟩
    · rw [Line.assemble_skip skips, if_neg (by omega)]
    · rw [Line.assemble_skip skips, if_pos last]

end Sys2Proof.Machine

/-! # The requests on lines, the events of the lines, and starts -/

namespace Sys2Proof.Machine

/-! ## SET LINE and its command (R160 to R162) -/

section
variable {s : State} {n : LineNo} {elapsed : Nat} {rest : List LineItem}

theorem exec_setLine_badField {line role rate parity stopBits duplex : Nat}
    (granted : s.grantedRequest = some (.setLine line role rate parity stopBits duplex))
    (bad : lineOfIndex line = none ∨ settingsOf role rate parity stopBits duplex = none) :
    exec .setLine s = .next (s.responded s.engine ⟨0x60, .badField, []⟩) := by
  rw [← State.answer_granted granted]
  simp only [exec, execSetLine, granted]
  split
  next line new => simp [line, new] at bad
  next => rfl

theorem exec_setLine {line role rate parity stopBits duplex : Nat} {new : Settings}
    (granted : s.grantedRequest = some (.setLine line role rate parity stopBits duplex))
    (line : lineOfIndex line = some n) (settings : settingsOf role rate parity stopBits duplex = some new) :
    exec .setLine s = .next ((s.send n (.settings new)).responded s.engine ⟨0x60, .done, new.fields⟩) := by
  rw [← State.answer_granted ((State.send_grantedRequest ..).trans granted)]
  simp only [exec, execSetLine, granted, line, settings]
  rfl

theorem exec_settingsCommand {new : Settings} (way : (s.lines.get n).inFlight = .settings new :: rest) :
    exec (.settingsCommand n elapsed) s =
      .next (s.withLine n (((s.lines.get n).advance elapsed).settle new).arrived) := by
  simp only [exec, execSettingsCommand, way, State.onLine_eq]

end

/-- Settles O33: the request refused and sent, and the command that finds its settings held or changes them. -/
theorem setLineChangesSettings : Obligations.SetLineChangesSettings := by
  refine ⟨fun s line role rate parity stopBits duplex granted =>
    ⟨exec_setLine_badField granted, fun n new isLine settings => exec_setLine granted isLine settings⟩,
    fun s n elapsed new rest way => ?_⟩
  intro l
  obtain rfl : l.inFlight.tail = rest := by rw [way]; rfl
  refine ⟨fun same => ?_, fun other => ?_⟩
  · rw [exec_settingsCommand way, Line.settle_same (l := l.advance elapsed) same]
    rfl
  · rw [exec_settingsCommand way, Line.settle_other (l := l.advance elapsed) other]
    rfl

/-! ## READ LINE and its command (R169, R171 to R173) -/

section
variable {s : State} {n : LineNo} {elapsed : Nat} {rest : List LineItem}

theorem exec_readLine_badField {line : Nat} (granted : s.grantedRequest = some (.readLine line))
    (bad : lineOfIndex line = none) : exec .readLine s = .next (s.responded s.engine ⟨0x61, .badField, []⟩) := by
  rw [← State.answer_granted granted]
  simp only [exec, execReadLine, granted, bad]
  rfl

theorem exec_readLine {line : Nat} (granted : s.grantedRequest = some (.readLine line)) (isLine : lineOfIndex line = some n) :
    exec .readLine s = .next ((s.send n .read).heldFor (.lineReport n)) := by
  simp only [exec, execReadLine, granted, isLine, State.holdPort_eq]

theorem exec_readCommand (way : (s.lines.get n).inFlight = .read :: rest) :
    exec (.readCommand n elapsed) s =
      .next ((s.withLine n { (s.lines.get n).advance elapsed with flags := .clear, inFlight := rest }).complete
        ⟨0x61, .done, ((s.lines.get n).advance elapsed).report⟩) := by
  simp only [exec, execReadCommand, way, State.onLine_eq, Line.arrived, Line.advance_inFlight, List.tail_cons]
  rfl

end

/-- Settles O34: the request refused and sent, and the line's report, which completes it or is lost. -/
theorem readLineReports : Obligations.ReadLineReports :=
  ⟨fun _ _ granted => ⟨exec_readLine_badField granted, fun _ isLine => exec_readLine granted isLine⟩,
    fun _ _ _ _ way => State.released_or_lost (exec_readCommand way)⟩

/-! ## A received character (R160, R163, R165, R167, R170, R174) -/

theorem Parity.bitCount_eq (p : Parity) : p.bitCount = if p = .none then 0 else 1 := by cases p <;> rfl

/-- The time to the middle of the first stop bit: start bit, eight data bits, parity if any, half a stop bit (R163). -/
theorem Settings.receiveUnits_eq (x : Settings) :
    x.receiveUnits = (9 + if x.parity = .none then 0 else 1) * x.rate.bitUnits + x.rate.bitUnits / 2 := by
  rw [Settings.receiveUnits, Parity.bitCount_eq]

theorem parityFault_eq (p : Parity) (b : Byte) (received : Bool) :
    parityFault p b received = match p with
      | .none => false
      | .even => oddOnes b != received
      | .odd => oddOnes b == received := by
  cases p
  · rfl
  · rfl
  · simp only [parityFault, parityBitFor]
    cases oddOnes b <;> cases received <;> rfl

theorem Line.beforeStart_eq (l : Line) : l.beforeStart =
    if l.assembler ≠ .hunt ∧ l.settings.gapLimit < l.silence - l.settings.receiveUnits then l.gap else l := by
  simp only [Line.beforeStart, Bool.and_eq_true, decide_eq_true_eq]

section
variable {s : State} {n : LineNo} {elapsed : Nat} {time : LineTime} {b : Byte} {parityBit stopBit : Bool}

theorem State.running_iff : s.running = true ↔ s.supply.state = .running := by simp [State.running]

theorem exec_receiveCharacter_stopped (stopped : s.supply.state ≠ .running) :
    exec (.receiveCharacter n elapsed b parityBit stopBit) s = .next s :=
  congrArg Host.Outcome.next (if_neg (mt State.running_iff.1 stopped))

section
variable (running : s.supply.state = .running)
include running

theorem exec_receiveCharacter : exec (.receiveCharacter n elapsed b parityBit stopBit) s =
    .next (s.withLine n (((s.lines.get n).advance elapsed).character b parityBit stopBit)) :=
  congrArg Host.Outcome.next (if_pos (State.running_iff.2 running))

theorem exec_gapTimeout : exec (.gapTimeout n time) s =
    .next (s.withLine n (((s.lines.get n).advance time.elapsed).silent time.start)) :=
  congrArg Host.Outcome.next (if_pos (State.running_iff.2 running))

theorem exec_replyBegin : exec (.replyBegin n time) s =
    .next (s.withLine n (((s.lines.get n).advance time.elapsed).begin time.start)) :=
  congrArg Host.Outcome.next (if_pos (State.running_iff.2 running))

theorem exec_replyEnd : exec (.replyEnd n elapsed) s =
    .next (s.withLine n ((s.lines.get n).advance elapsed).finish) :=
  congrArg Host.Outcome.next (if_pos (State.running_iff.2 running))

end
end

/-- Settles O36: the part not RUNNING, the character not heard, and the character heard in fault or good. -/
theorem charactersAreTaken : Obligations.CharactersAreTaken := by
  intro s n elapsed data parityBit stopBit l bit length before fault heard character
  have isLength : l.settings.receiveUnits = length := Settings.receiveUnits_eq _
  have isBefore : l.beforeStart = before := by rw [Line.beforeStart_eq, isLength]; rfl
  have isFault : parityFault l.settings.parity data parityBit = fault := parityFault_eq ..
  have isHeard : (l.listening = true ∧ l.settings.receiveUnits ≤ l.looking) ↔ heard := by
    rw [Line.listening_iff, isLength, and_assoc]
  have taken (running : s.supply.state = .running) {l' : Line} (h : l.character data parityBit stopBit = l') :
      character = .next (s.withLine n l') :=
    h ▸ exec_receiveCharacter running
  obtain ⟨passes, receives⟩ := l.character_spec data parityBit stopBit
  rw [isHeard] at passes receives
  rw [isLength, isBefore, isFault] at receives
  exact ⟨exec_receiveCharacter_stopped,
    fun running unheard => taken running (passes unheard),
    fun running heard => ⟨fun faulty => taken running ((receives heard).1 faulty),
      fun good stop => taken running ((receives heard).2 good stop)⟩⟩

/-! ## The line's timers and its output (R160, R164, R167, R169, R170, R174) -/

section
variable {l : Line} {r : Reply} {sent : Nat}

/-- The receiver of a line that listens looks on for a start bit (R163; log entry 9). -/
theorem Line.advance_eq {listens : Prop} [Decidable listens] (h : l.listening = true ↔ listens) {elapsed : Nat} :
    l.advance elapsed = { l.advance elapsed with looking := if listens then l.looking + elapsed else 0 } := by
  have looks := (l.advance_looking elapsed).trans (if_congr h rfl rfl)
  rw [← looks]

theorem Line.finish_idle (idle : l.transmitter = .idle) : l.finish = l := by simp only [Line.finish, idle]

theorem Line.finish_sending (sending : l.transmitter = .sending r sent) :
    l.finish = if r.bytes.length * l.settings.charUnits ≤ sent then { l with transmitter := .idle, quiet := 0 } else l := by
  simp only [Line.finish, sending]
  rfl

theorem Line.output_released {running : Bool} (released : running = false ∨ l.settings.role = .off) :
    l.output running = .highImpedance := by
  rcases released with h | h <;> simp [Line.output, h]

theorem Line.output_idle (role : l.settings.role ≠ .off) (idle : l.transmitter = .idle) : l.output true = .one := by
  simp [Line.output, role, idle]

end

/-- Settles O37: the time that passes, the three timers of a RUNNING part, and the level of the output. -/
theorem lineTimersAct : Obligations.LineTimersAct := by
  refine ⟨fun l elapsed => ?_, fun s n elapsed start running => ?_, fun l running => ⟨Line.output_released, ?_⟩⟩
  · exact Line.advance_eq Line.listening_iff
  · intro l limit listening fell heard silent mayBegin
    have isFell : l.startBit start = fell := by
      rw [Line.startBit_eq]
      simp only [Line.listening_iff]
      rfl
    have isHeard := l.hears_quiet start
    rw [isFell] at isHeard
    change l.hears start = heard at isHeard
    obtain ⟨ends, waits⟩ := l.silent_spec start
    obtain ⟨begins, holds⟩ := l.begin_spec start
    rw [isHeard] at waits begins holds
    rw [isFell, Line.listening_iff] at ends waits
    rw [exec_gapTimeout running, exec_replyBegin running, exec_replyEnd running]
    have next {l₁ l₂ : Line} (h : l₁ = l₂) :
        (.next (s.withLine n l₁) : Host.Outcome State Fault Refusal) = .next (s.withLine n l₂) := by rw [h]
    refine ⟨fun h => next (ends h), fun h => next (waits h), fun r rest head may => next (begins r rest head may),
      fun h => next (holds h), fun r sent sending all => next ?_, ?_⟩
    · exact (Line.finish_sending sending).trans (if_pos all)
    · rintro (idle | ⟨r, sent, sending, more⟩)
      · exact next (Line.finish_idle idle)
      · exact next ((Line.finish_sending sending).trans (if_neg (by omega)))
  · rintro rfl role
    refine ⟨Line.output_idle role, fun r i b bit part byte inCharacter inBit sending => ?_⟩
    rw [Line.output_sending role byte inCharacter inBit sending, charLevels_getD _ _ inCharacter]
    cases l.settings.parity <;> rfl

/-! ## Starts (R174, R181, R182, R185, R187, R189) -/

section
variable {s : State} {mark warning low : Bool}

/-- What a start leaves of the tables, the calendar and the line settings that it finds (R174, R181, R182). -/
theorem State.starting_eq (marked : s.supply.mark = mark) : s.starting low = { s with
    hold := none, pointer := .port, lines := s.lines.map (fun l => .started l.settings), port := .started, mask := .all
    supply := ⟨.starting, mark, low, false⟩ } := by
  rw [State.starting, marked]

/-- A fail warning found high finds nothing yet that a stop would discard (R185). -/
theorem State.stop_starting (marked : s.supply.mark = mark) : (s.starting low).stop = { s with
    hold := none, pointer := .port, lines := s.lines.map (fun l => .started l.settings), port := .started, mask := .all
    supply := ⟨.stopping, mark, low, false⟩ } := by
  subst marked
  rfl

/-- Nothing of what was there survives a cold start (R187). -/
theorem State.stop_starting_cold (marked : s.supply.mark = mark) : (s.coldStart.starting low).stop = { State.reset with
    supply := ⟨.stopping, mark, low, false⟩, port := { State.reset.port with earlier := [] }
    freeIndex := s.freeIndex, pending := s.pending } := by
  subst marked
  rfl

theorem exec_mainSupplyGoodRise_powered (live : s.supply.state ≠ .retaining) (live' : s.supply.state ≠ .unpowered) :
    exec (.mainSupplyGoodRise warning low) s = .next s := by
  cases h : s.supply.state with
  | retaining => exact absurd h live
  | unpowered => exact absurd h live'
  | starting | running | stopping => simp only [exec, execMainSupplyGoodRise, h]

section
variable (powerless : s.supply.state = .unpowered ∨ s.supply.state = .retaining)
include powerless

theorem exec_mainSupplyGoodRise_cold (invalid : s.supply.mark = false) : exec (.mainSupplyGoodRise warning low) s =
    .next (if warning then (s.coldStart.starting low).stop else s.coldStart.starting low) := by
  rcases powerless with h | h <;> simp only [exec, execMainSupplyGoodRise, h, invalid, Bool.false_eq_true, if_false]

theorem exec_mainSupplyGoodRise_warm (valid : s.supply.mark = true) : exec (.mainSupplyGoodRise warning low) s =
    .next (if warning then (s.starting low).stop else s.starting low) := by
  rcases powerless with h | h <;> simp only [exec, execMainSupplyGoodRise, h, valid, if_true]

end

theorem exec_startComplete (starting : s.supply.state = .starting) : exec .startComplete s = .next { s with
    supply := { s.supply with state := .running, mark := true }
    lines := s.lines.map (fun l => { l with quiet := 0, looking := 0 })
    port := { s.port with earlier := ⟨.starting, s.port.state, s.port.overrun, s.port.torn⟩ :: s.port.earlier } } := by
  simp only [exec, execStartComplete, starting, State.statuses, State.status]

theorem exec_startComplete_elsewhere (h : s.supply.state ≠ .starting) : exec .startComplete s = .next s := by
  cases state : s.supply.state with
  | starting => exact absurd state h
  | unpowered | retaining | running | stopping => simp only [exec, execStartComplete, state]

end

/-- Settles O48: the cold start with its completion, the warm start, and the completion of any start. -/
theorem startsAreColdOrWarm : Obligations.StartsAreColdOrWarm := by
  refine ⟨fun s low powerless invalid => ⟨s.coldStart.starting low, exec_mainSupplyGoodRise_cold powerless invalid, rfl,
      invalid, exec_startComplete rfl, ?_⟩,
    fun s low => ⟨fun retaining valid => ⟨?_, ?_⟩, fun live live' _ => exec_mainSupplyGoodRise_powered live live'⟩,
    fun s => ⟨exec_startComplete, exec_startComplete_elsewhere⟩⟩
  · exact (exec_mainSupplyGoodRise_cold powerless invalid).trans (congrArg Host.Outcome.next (State.stop_starting_cold invalid))
  · exact (exec_mainSupplyGoodRise_warm (.inr retaining) valid).trans (congrArg Host.Outcome.next (State.starting_eq valid))
  · exact (exec_mainSupplyGoodRise_warm (.inr retaining) valid).trans (congrArg Host.Outcome.next (State.stop_starting valid))

end Sys2Proof.Machine

/-! # Bytes, requests and frames on the wire of the port -/

namespace Sys2Proof.Machine

/-! ## Numbers in bytes, most significant first (R192) -/

/-- The least significant byte stands last. -/
theorem bytesBE_succ (width v : Nat) : bytesBE (width + 1) v = bytesBE width (v / 256) ++ [BitVec.ofNat 8 v] := by
  induction width with
  | zero => simp [bytesBE]
  | succ width ih =>
    rw [bytesBE, ih, bytesBE, Nat.div_div_eq_div_mul, ← Nat.pow_succ', List.cons_append]

/-- The two byte orders are each other's reverse (R190, R192). -/
theorem bytesBE_eq_reverse (width v : Nat) : bytesBE width v = (bytesLE width v).reverse := by
  induction width generalizing v with
  | zero => rfl
  | succ width ih => rw [bytesBE_succ, ih, bytesLE, List.reverse_cons]

theorem ofBE_eq_ofLE_reverse (bytes : List Byte) : ofBE bytes = ofLE bytes.reverse := by
  induction bytes using List.reverseRecOn with
  | nil => rfl
  | append_singleton bytes b ih =>
    have last : ofBE (bytes ++ [b]) = ofBE bytes * 256 + b.toNat := by simp [ofBE]
    rw [last, ih, List.reverse_append, List.reverse_singleton, List.singleton_append, ofLE]
    omega

@[simp] theorem bytesBE_length (width v : Nat) : (bytesBE width v).length = width := by
  rw [bytesBE_eq_reverse, List.length_reverse, bytesLE_length]

theorem ofBE_bytesBE {width v : Nat} (fits : v < 256 ^ width) : ofBE (bytesBE width v) = v := by
  rw [ofBE_eq_ofLE_reverse, bytesBE_eq_reverse, List.reverse_reverse, ofLE_bytesLE fits]

theorem bytesBE_ofBE (bytes : List Byte) : bytesBE bytes.length (ofBE bytes) = bytes := by
  rw [bytesBE_eq_reverse, ofBE_eq_ofLE_reverse, ← bytes.length_reverse, bytesLE_ofLE, List.reverse_reverse]

/-! ## The fields of a request (R177, R192) -/

theorem writeBE_length {widths nums : List Nat} (same : widths.length = nums.length) :
    (writeBE widths nums).length = widths.sum := by
  induction widths generalizing nums with
  | nil => rfl
  | cons w ws ih =>
    cases nums with
    | nil => cases same
    | cons v vs => simp [writeBE, ih (Nat.succ.inj same)]

/-- Numbers that fit their widths are read back as they were written. -/
theorem readBE_writeBE {widths nums : List Nat} (same : widths.length = nums.length)
    (fits : (List.zipWith (fun w v => decide (v < 256 ^ w)) widths nums).all id = true) :
    readBE widths (writeBE widths nums) = nums := by
  induction widths generalizing nums with
  | nil => exact (List.length_eq_zero_iff.1 same.symm).symm
  | cons w ws ih =>
    cases nums with
    | nil => cases same
    | cons v vs =>
      simp only [List.zipWith_cons_cons, List.all_cons, id_eq, Bool.and_eq_true, decide_eq_true_eq] at fits
      obtain ⟨first, others⟩ := fits
      rw [writeBE, readBE, List.take_left' (bytesBE_length w v), List.drop_left' (bytesBE_length w v),
        ofBE_bytesBE first, ih (Nat.succ.inj same) others]

/-- The code of a request has one width for each number that the request carries. -/
theorem Request.widths (r : Request) : ∃ ws, requestWidths r.code = some ws ∧ ws.length = r.nums.length := by
  cases r <;> exact ⟨_, rfl, rfl⟩

theorem Request.code_lt (r : Request) : r.code < 256 := by
  cases r <;> simp [Request.code]

/-- Code and numbers of a request name that request and no other. -/
theorem Request.of_code_nums (r : Request) :
    ((recordRequestOf r.code r.nums).orElse fun _ => (planRequestOf r.code r.nums).orElse fun _ =>
      (agentRequestOf r.code r.nums).orElse fun _ => partRequestOf r.code r.nums) = some r := by
  cases r <;> rfl

/-- Settles O5: the kind byte gives the widths back, the widths the numbers, and code and numbers the request. -/
theorem requestFramesRoundTrip : Obligations.RequestFramesRoundTrip := by
  intro r fits
  obtain ⟨ws, widths, same⟩ := r.widths
  have kind : (BitVec.ofNat 8 r.code).toNat = r.code := Nat.mod_eq_of_lt r.code_lt
  simp only [Request.fits, widths, Option.getD_some] at fits
  simp only [Request.frame, Frame.request, kind, widths, Option.getD_some, writeBE_length same, if_true,
    readBE_writeBE same fits, r.of_code_nums]

/-! ## Bytes as bits, most significant first (R175) -/

theorem byteBits_byteOfBits : ∀ a b c d e f g h : Bool,
    byteBits (byteOfBits [a, b, c, d, e, f, g, h]) = [a, b, c, d, e, f, g, h] := by decide

theorem byteOfBits_byteBits : ∀ b : Byte, byteOfBits (byteBits b) = b := by decide

theorem spellBits_cons (b : Byte) (bytes : List Byte) : spellBits (b :: bytes) = byteBits b ++ spellBits bytes := rfl

@[simp] theorem spellBits_length (bytes : List Byte) : (spellBits bytes).length = 8 * bytes.length := by
  induction bytes with
  | nil => rfl
  | cons b bytes ih => rw [spellBits_cons, List.length_append, ih, List.length_cons, Nat.mul_succ, Nat.add_comm]; rfl

theorem packBytes_spellBits (bytes : List Byte) : packBytes (spellBits bytes) = bytes := by
  induction bytes with
  | nil => rfl
  | cons b bytes ih =>
    calc packBytes (byteBits b ++ spellBits bytes)
      _ = byteOfBits (byteBits b) :: packBytes (spellBits bytes) := rfl
      _ = b :: bytes := by rw [byteOfBits_byteBits, ih]

/-- Bits that make whole bytes are spelled by those bytes. -/
theorem spellBits_packBytes {bits : List Bool} (whole : bits.length % 8 = 0) : spellBits (packBytes bits) = bits := by
  fun_induction packBytes bits with
  | case1 a b c d e f g h rest ih =>
    simp only [List.length_cons] at whole
    rw [spellBits_cons, byteBits_byteOfBits, ih (by omega)]
    rfl
  | case2 bits short =>
    match bits with
    | [] => rfl
    | [_] | [_, _] | [_, _, _] | [_, _, _, _] | [_, _, _, _, _] | [_, _, _, _, _, _] | [_, _, _, _, _, _, _] =>
      simp at whole
    | a :: b :: c :: d :: e :: f :: g :: h :: rest => exact absurd rfl (short a b c d e f g h rest)

/-! ## Complete frames (R177, R193) -/

theorem Frame.wire_eq (f : Frame) : f.wire = f.kind :: BitVec.ofNat 8 (f.fields.length + 2) ::
    (f.fields ++ bytesBE 2 (frameCheck (f.kind :: BitVec.ofNat 8 (f.fields.length + 2) :: f.fields)).toNat) := rfl

/-- Kind, length and what follows are the wire of a frame when the length counts what follows, and what follows are the
fields and the agreeing check. -/
theorem Frame.wire_eq_iff {f : Frame} {kind length : Byte} {rest : List Byte} (short : rest.length ≤ 62) :
    kind :: length :: rest = f.wire ↔ (rest.length = length.toNat ∧ (rest.drop (rest.length - 2)).length = 2 ∧
      ofBE (rest.drop (rest.length - 2)) = (frameCheck (kind :: length :: rest.take (rest.length - 2))).toNat) ∧
      (⟨kind, rest.take (rest.length - 2)⟩ : Frame) = f := by
  constructor
  · rw [Frame.wire_eq]
    rintro ⟨⟩
    simp only [List.length_append, bytesBE_length] at short ⊢
    rw [Nat.add_sub_cancel, List.drop_left' rfl, List.take_left' rfl, bytesBE_length]
    exact ⟨⟨by simp; omega, rfl, ofBE_bytesBE (BitVec.isLt _)⟩, rfl⟩
  · rintro ⟨⟨count, two, agrees⟩, rfl⟩
    have fields : (rest.take (rest.length - 2)).length + 2 = rest.length := by
      rw [List.length_drop] at two
      rw [List.length_take]
      omega
    have length : BitVec.ofNat 8 rest.length = length := by rw [count, BitVec.ofNat_toNat, BitVec.setWidth_eq]
    have check : bytesBE 2 (ofBE (rest.drop (rest.length - 2))) = rest.drop (rest.length - 2) := by
      conv_rhs => rw [← bytesBE_ofBE (rest.drop (rest.length - 2)), two]
    rw [Frame.wire_eq, fields, length, ← agrees, check, List.take_append_drop]

/-- Whole bytes are a complete frame exactly when they are its wire, in at most 64 bytes. -/
theorem completeFrame_iff {bits : List Bool} {f : Frame} :
    completeFrame bits = some f ↔ bits.length % 8 = 0 ∧ packBytes bits = f.wire ∧ f.wire.length ≤ 64 := by
  have judged {kind length : Byte} {rest : List Byte} (bytes : packBytes bits = kind :: length :: rest) :
      completeFrame bits = some f ↔ bits.length % 8 = 0 ∧ rest.length ≤ 62 ∧ kind :: length :: rest = f.wire := by
    have most : (kind :: length :: rest).length ≤ 64 ↔ rest.length ≤ 62 := by simp only [List.length_cons]; omega
    by_cases short : rest.length ≤ 62
    · rw [Frame.wire_eq_iff short]
      simp [-List.length_cons, completeFrame, bytes, Config.frameBytes, most, short, and_assoc]
    · simp [-List.length_cons, completeFrame, bytes, Config.frameBytes, most, short]
  match bytes : packBytes bits with
  | [] | [_] => simp [completeFrame, bytes, Frame.wire_eq]
  | kind :: length :: rest =>
    rw [judged bytes]
    refine and_congr_right fun _ => and_comm.trans (and_congr_right fun wire => ?_)
    rw [← wire]
    simp only [List.length_cons]
    omega

/-- Settles O6: the bytes packed from the bits are judged, and whole bytes and their bits determine each other. -/
theorem completeFramesAreWires : Obligations.CompleteFramesAreWires := by
  intro bits f
  rw [completeFrame_iff]
  constructor
  · rintro ⟨whole, wire, short⟩
    exact ⟨by rw [← wire, spellBits_packBytes whole], short⟩
  · rintro ⟨rfl, short⟩
    exact ⟨by simp, packBytes_spellBits _, short⟩

end Sys2Proof.Machine

/-! # Frames of the port and the attention output -/

namespace Sys2Proof.Machine

section
variable {s : State} {before clocks : Nat} {bits : List Bool} {x : Status}

/-! ## Request frames (R175 to R178, R181) -/

/-- The port at the end of a frame of so many clocks, before anything is made of the frame: the flags reported are cleared,
and the status byte has been shifted out (R175, R176). -/
def Port.reported (p : Port) (x : Status) (clocks : Nat) : Port :=
  { p with
    overrun := p.overrun && !(x.overrun && decide (8 ≤ clocks))
    torn := p.torn && !(x.torn && decide (8 ≤ clocks))
    earlier := []
    dataOut := (x.bits ++ List.replicate (clocks - 8) true).take clocks }

/-- What is shifted out of a status byte and ones behind it (R175). -/
theorem shifted_status (x : Status) (clocks : Nat) :
    shifted x.bits clocks = (x.bits ++ List.replicate (clocks - 8) true).take clocks := by
  rw [shifted_eq, Status.bits_length]

theorem Port.frameEnded_flagsReported (p : Port) (x : Status) (clocks : Nat) :
    (p.flagsReported x clocks).frameEnded (shifted x.bits clocks) = p.reported x clocks := by
  rw [Port.flagsReported_eq, shifted_status]
  rfl

theorem State.judgeFrame_torn (torn : completeFrame bits = none) :
    s.judgeFrame x bits = { s with port := { s.port.reported x bits.length with torn := true } } := by
  simp only [State.judgeFrame, torn, Port.frameEnded_flagsReported]

section
variable {f : Frame} (complete : completeFrame bits = some f)
include complete

theorem State.judgeFrame_complete : s.judgeFrame x bits =
    { s with
      port := if s.supply.state = .starting then (s.port.reported x bits.length).acceptStarting f
        else (s.port.reported x bits.length).acceptRunning f } := by
  simp only [State.judgeFrame, complete, Port.frameEnded_flagsReported]

theorem State.judgeFrame_accepted (running : s.supply.state = .running) (idle : s.port.state = .idle) :
    s.judgeFrame x bits =
      { s with port := { s.port.reported x bits.length with state := .busy, request := some f } } := by
  have state : (s.port.reported x bits.length).state = .idle := idle
  simp [State.judgeFrame_complete complete, running, Port.acceptRunning, state]

theorem State.judgeFrame_starting (starting : s.supply.state = .starting) (idle : s.port.state = .idle) :
    s.judgeFrame x bits = { s with port :=
      { s.port.reported x bits.length with state := .ready, response := some ⟨f.kind, .stopping, []⟩ } } := by
  have state : (s.port.reported x bits.length).state = .idle := idle
  simp [State.judgeFrame_complete complete, starting, Port.acceptStarting, state, startingResponse]

theorem State.judgeFrame_refused (taken : s.port.state ≠ .idle) :
    s.judgeFrame x bits = { s with port := { s.port.reported x bits.length with overrun := true } } := by
  have refused (p : Port) (h : p.state ≠ .idle) :
      p.acceptRunning f = { p with overrun := true } ∧ p.acceptStarting f = { p with overrun := true } := by
    cases state : p.state with
    | idle => exact absurd state h
    | busy | ready => simp only [Port.acceptRunning, Port.acceptStarting, state, and_self]
  obtain ⟨running, starting⟩ := refused (s.port.reported x bits.length) taken
  rw [State.judgeFrame_complete complete, running, starting, ite_self]

end

theorem exec_requestFrame (given : bits ≠ []) (other : (packBytes bits).head? ≠ some 0x5A) :
    exec (.requestFrame ⟨before, bits⟩) s = .next (s.frame before bits.length fun x => s.judgeFrame x bits) := by
  simp only [exec, execRequestFrame, List.isEmpty_eq_false_iff.2 given, readKind, other, Bool.false_eq_true, if_false]

theorem exec_requestFrame_read (read : (packBytes bits).head? = some 0x5A) :
    exec (.requestFrame ⟨before, bits⟩) s = exec (.readFrame ⟨before, bits.length - 8⟩) s := by
  have given : bits ≠ [] := by
    rintro rfl
    cases read
  simp only [exec, execRequestFrame, execReadFrame, List.isEmpty_eq_false_iff.2 given, readKind, read, Bool.false_eq_true,
    if_false, if_true]

/-- Settles O39: the frame in each supply state and of each judgement, the empty frame, and the frame of kind READ. -/
theorem requestFramesAreJudged : Obligations.RequestFramesAreJudged := by
  refine ⟨fun s before bits given other => ?_, fun _ _ => rfl, fun _ _ _ => exec_requestFrame_read⟩
  intro now ends
  have judged {p : Port} (h : s.frame before bits.length (fun x => s.judgeFrame x bits) = { s with port := p }) : ends p :=
    (exec_requestFrame given other).trans (congrArg Host.Outcome.next h)
  refine ⟨fun x latched => ?_, fun gone => judged (State.frame_ended (State.latched_none.2 gone))⟩
  intro status p live
  have inFrame {t : State} (h : live) (g : s.judgeFrame x bits = t) :
      s.frame before bits.length (fun x => s.judgeFrame x bits) = t := (State.frame_live latched h).trans g
  refine ⟨fun h torn => judged (inFrame h (State.judgeFrame_torn torn)), fun f complete => ⟨?_, ?_, ?_⟩, ?_, ?_⟩
  · exact fun running idle => judged (inFrame (.inl running) (State.judgeFrame_accepted complete running idle))
  · exact fun starting idle => judged (inFrame (.inr starting) (State.judgeFrame_starting complete starting idle))
  · exact fun h taken => judged (inFrame h (State.judgeFrame_refused complete taken))
  · intro stopping
    refine judged ((State.frame_stopping latched stopping).trans ?_)
    rw [shifted_status]
    rfl
  · exact fun powerless => judged (State.frame_powerless latched powerless)

/-! ## READ frames (R175, R176, R179 to R181) -/

theorem Port.readBits_ready {p : Port} {r : Response} (ready : x.port = .ready) (response : p.response = some r) :
    p.readBits x = spellBits r.bytes := by
  simp only [Port.readBits, ready, response]

theorem Port.readBits_other {p : Port} (other : x.port ≠ .ready) : p.readBits x = [] := by
  cases port : x.port with
  | ready => exact absurd port other
  | idle | busy => simp only [Port.readBits, port]

/-- The port at the end of a READ frame that has not emptied it: the flags reported are cleared, a torn count is flagged,
and status and response have been shifted out (R175, R176, R179). -/
def Port.read (p : Port) (x : Status) (clocks : Nat) (out : List Bool) : Port :=
  { p with
    overrun := p.overrun && !x.overrun
    torn := (p.torn && !x.torn) || decide (clocks % 8 ≠ 0)
    earlier := []
    dataOut := (x.bits ++ out ++ List.replicate (8 + clocks - (x.bits ++ out).length) true).take (8 + clocks) }

theorem State.readFrame_port (s : State) (x : Status) (clocks : Nat) :
    s.readFrame x clocks =
      { s with
        port := if x.port = .ready ∧ (s.port.readBits x).length ≤ clocks then
            { s.port.read x clocks (s.port.readBits x) with state := .idle, response := none }
          else s.port.read x clocks (s.port.readBits x) } := by
  have torn : (clocks % 8 != 0) = decide (clocks % 8 ≠ 0) := Bool.eq_iff_iff.2 (by simp)
  simp only [State.readFrame, Port.flagsReported, Port.frameEnded, Port.read, shifted_eq, torn, Nat.le_refl, if_true]
  split <;> rfl

theorem State.readFrame_other (other : x.port ≠ .ready) :
    s.readFrame x clocks = { s with port := s.port.read x clocks [] } := by
  rw [State.readFrame_port, if_neg (other ·.1), Port.readBits_other other]

section
variable {r : Response} (ready : x.port = .ready) (response : s.port.response = some r)
include ready response

theorem State.readFrame_part (part : clocks < (spellBits r.bytes).length) :
    s.readFrame x clocks = { s with port := s.port.read x clocks (spellBits r.bytes) } := by
  rw [State.readFrame_port, Port.readBits_ready ready response, if_neg (Nat.not_le.2 part ·.2)]

theorem State.readFrame_whole (whole : (spellBits r.bytes).length ≤ clocks) :
    s.readFrame x clocks =
      { s with port := { s.port.read x clocks (spellBits r.bytes) with state := .idle, response := none } } := by
  rw [State.readFrame_port, Port.readBits_ready ready response, if_pos ⟨ready, whole⟩]

end

/-! ## The level of data out (R175, R181) -/

theorem State.dataOutLevel_stopping (stopping : s.supply.state = .stopping) (x : Status) (read : Bool) (clock : Nat) :
    s.dataOutLevel (.low x read clock) = Level.ofBit (x.bits.getD clock true) := by
  simp only [State.dataOutLevel, stopping]

theorem State.dataOutLevel_powerless (powerless : s.supply.state = .retaining ∨ s.supply.state = .unpowered) (x : Status)
    (read : Bool) (clock : Nat) : s.dataOutLevel (.low x read clock) = .highImpedance := by
  rcases powerless with h | h <;> simp only [State.dataOutLevel, h]

/-- Of a powered part the first eight clocks have the status byte (R175, R176). -/
theorem State.dataOutLevel_status
    (powered : (s.supply.state = .running ∨ s.supply.state = .starting) ∨ s.supply.state = .stopping) (read : Bool)
    {clock : Nat} {bit : Bool} (h : x.bits[clock]? = some bit) : s.dataOutLevel (.low x read clock) = Level.ofBit bit := by
  have level : x.bits.getD clock true = bit := by rw [List.getD_eq_getElem?_getD, h, Option.getD_some]
  have first : clock < 8 := x.bits_length ▸ (List.getElem?_eq_some_iff.1 h).1
  rcases powered with live | stopping
  · rw [State.dataOutLevel_low live, if_pos first, level]
  · rw [State.dataOutLevel_stopping stopping, level]

/-- In RUNNING and STARTING the clocks behind them have the bits of the response, then ones (R175, R179). -/
theorem State.dataOutLevel_behind (live : s.supply.state = .running ∨ s.supply.state = .starting) (read : Bool) (i : Nat) :
    s.dataOutLevel (.low x read (8 + i)) = Level.ofBit ((if read then s.port.readBits x else []).getD i true) := by
  rw [State.dataOutLevel_low live, if_neg (by omega), Nat.add_sub_cancel_left]

/-- Data out of a live part has ones where a frame has no bit of a response (R175). -/
theorem State.dataOutLevel_one (live : s.supply.state = .running ∨ s.supply.state = .starting) {read : Bool} {clock : Nat}
    (h : 8 + (if read then s.port.readBits x else []).length ≤ clock) : s.dataOutLevel (.low x read clock) = .one := by
  obtain ⟨i, rfl⟩ := Nat.exists_eq_add_of_le ((Nat.le_add_right _ _).trans h)
  rw [State.dataOutLevel_behind live, List.getD_eq_default _ _ (Nat.le_of_add_le_add_left h)]
  rfl

/-- Settles O40: the READ frame in each supply state, and the level of data out at each clock of a frame. -/
theorem readFramesShiftResponse : Obligations.ReadFramesShiftResponse := by
  refine ⟨fun s before clocks => ?_, fun _ => rfl, fun s x kindIsRead clock => ?_⟩
  · intro now read
    have reads {p : Port} (h : s.frame before (8 + clocks) (fun x => s.readFrame x clocks) = { s with port := p }) :
        read p := congrArg Host.Outcome.next h
    refine ⟨fun x latched => ?_, fun gone => reads (State.frame_ended (State.latched_none.2 gone))⟩
    intro status out p
    have noResponse : s.port.read x clocks [] = p := by
      simp only [Port.read, List.append_nil]
      rfl
    refine ⟨fun live => ?_, fun stopping => ?_, fun powerless => reads (State.frame_powerless latched powerless)⟩
    · have inFrame {t : State} (g : s.readFrame x clocks = t) :
          s.frame before (8 + clocks) (fun x => s.readFrame x clocks) = t := (State.frame_live latched live).trans g
      refine ⟨fun other => reads (inFrame ?_), fun r ready response => ⟨fun part => ?_, fun whole => ?_⟩⟩
      · rw [State.readFrame_other other, noResponse]
      · exact reads (inFrame (State.readFrame_part ready response part))
      · exact reads (inFrame (State.readFrame_whole ready response whole))
    · refine reads ((State.frame_stopping latched stopping).trans ?_)
      rw [shifted_eq]
      rfl
  · intro level status live
    refine ⟨fun powerless => State.dataOutLevel_powerless powerless x kindIsRead clock,
      fun powered bit => State.dataOutLevel_status powered kindIsRead, fun h isRead ready r response => ?_,
      fun h behind none => ?_, fun stopping behind => ?_⟩
    · subst isRead
      have bits : (if true then s.port.readBits x else []) = spellBits r.bytes := Port.readBits_ready ready response
      refine ⟨?_, fun behind => State.dataOutLevel_one h (by rwa [bits])⟩
      rintro i bit rfl here
      change s.dataOutLevel _ = _
      rw [State.dataOutLevel_behind h, bits, List.getD_eq_getElem?_getD, here, Option.getD_some]
    · have bits : (if kindIsRead then s.port.readBits x else []) = [] := by
        rcases none with rfl | other
        · rfl
        · rw [Port.readBits_other other, ite_self]
      exact State.dataOutLevel_one h (by rwa [bits])
    · change s.dataOutLevel _ = _
      rw [State.dataOutLevel_stopping stopping, List.getD_eq_default _ _ (by rwa [Status.bits_length])]
      rfl

end

end Sys2Proof.Machine

/-! # The attention output -/

namespace Sys2Proof.Machine

section
variable {s : State}

/-! ## SET ATTENTION MASK (R182, R183) -/

theorem maskOf_refused {b : Nat} (top : b.testBit 7 = true) : maskOf b = none := if_pos top

theorem maskOf_accepted {b : Nat} (top : b.testBit 7 = false) :
    maskOf b = some ⟨b.testBit 0, b.testBit 1, b.testBit 2, b.testBit 3, b.testBit 4, b.testBit 5, b.testBit 6⟩ :=
  if_neg (by simp [top])

theorem exec_setAttentionMask_refused {b : Nat} (h : s.grantedRequest = some (.setAttentionMask b))
    (refused : maskOf b = none) : exec .setAttentionMask s = .next (s.responded s.engine ⟨0x70, .badField, []⟩) := by
  simp only [exec, execSetAttentionMask, h, refused]
  exact State.answer_granted h _ _

theorem exec_setAttentionMask_held {b : Nat} {mask : Causes} (h : s.grantedRequest = some (.setAttentionMask b))
    (accepted : maskOf b = some mask) : exec .setAttentionMask s = .next (s.heldFor (.maskWrite mask)) := by
  simp only [exec, execSetAttentionMask, h, accepted, State.holdPort_eq]

theorem exec_maskWrite {mask : Causes} (h : s.hold = some (.maskWrite mask)) :
    exec .maskWrite s = .next ({ s with mask := mask }.complete ⟨0x70, .done, [byteField mask.bits]⟩) := by
  simp only [exec, execMaskWrite, h, setMaskKind]

/-! ## READ ATTENTION (R184) -/

/-- A cause is both enabled and holding (R182). -/
theorem Causes.any_inter (a b : Causes) : (a.inter b).any = (List.zipWith and
    [a.responseReady, a.noticesWaiting, a.lineFault, a.agentWatermark, a.poolLow, a.timeUnset, a.backupLow]
    [b.responseReady, b.noticesWaiting, b.lineFault, b.agentWatermark, b.poolLow, b.timeUnset, b.backupLow]).any id := by
  simp [Causes.inter, Causes.any, Bool.or_assoc]

theorem State.attention_live (live : s.supply.state = .running ∨ s.supply.state = .starting) :
    s.attention = (s.mask.inter s.causes).any :=
  Bool.eq_iff_iff.2 (State.attention_iff s |>.trans (and_iff_right live))

theorem State.attention_elsewhere (elsewhere : ¬(s.supply.state = .running ∨ s.supply.state = .starting)) :
    s.attention = false :=
  Bool.eq_false_iff.2 fun h => elsewhere ((State.attention_iff s).1 h).1

/-- LINE FAULT looks at every line (R171, R182). -/
theorem State.causes_lineFault (s : State) : s.causes.lineFault = lineNos.any fun n => (s.lines.get n).flags.fault := by
  simp [State.causes, lineNos, Lines.get, Bool.or_assoc]

/-- The causes that hold while a request of the port is answered: the port is BUSY (R182, R184). -/
theorem State.causes_granted {q : Request} (h : s.grantedRequest = some q) : s.causes =
    ⟨false, decide (s.engine.notices ≠ []), lineNos.any fun n => (s.lines.get n).flags.fault,
      s.engine.agents.any fun a => a.2.watermark, decide (s.engine.poolFree < 64), decide (s.calendar.state = .unset),
      s.supply.backupLow⟩ := by
  have busy := State.busy_of_grant (State.grantedRequest_spec h).1
  have notices : (!s.engine.notices.isEmpty) = decide (s.engine.notices ≠ []) := by cases s.engine.notices <;> rfl
  have unset : (s.calendar.state == .unset) = decide (s.calendar.state = .unset) := by cases s.calendar.state <;> rfl
  rw [← State.causes_lineFault, ← notices, ← unset]
  simp only [State.causes, busy]
  rfl

theorem exec_readAttention (h : s.grantedRequest = some .readAttention) :
    exec .readAttention s = .next (s.responded s.engine ⟨0x71, .done,
      [byteField s.mask.bits, byteField s.causes.bits, flagField (s.mask.inter s.causes).any]⟩) := by
  have running := (State.grant_spec (State.grantedRequest_spec h).1).1
  simp only [exec, execReadAttention, h, State.attention_live (.inl running)]
  exact State.answer_granted h _ _

/-! ## The attention line (R182) -/

/-- The attention line of a live part: the causes one by one. -/
theorem State.attention_live_iff (live : s.supply.state = .running ∨ s.supply.state = .starting) :
    s.attention = true ↔
      (s.mask.responseReady = true ∧ s.port.state = .ready) ∨
      (s.mask.noticesWaiting = true ∧ s.engine.notices ≠ []) ∨
      (s.mask.lineFault = true ∧ ∃ n, (s.lines.get n).flags.fault = true) ∨
      (s.mask.agentWatermark = true ∧ ∃ a ∈ s.engine.agents, a.2.watermark = true) ∨
      (s.mask.poolLow = true ∧ s.engine.poolFree < 64) ∨
      (s.mask.timeUnset = true ∧ s.calendar.state = .unset) ∨
      (s.mask.backupLow = true ∧ s.supply.backupLow = true) := by
  have fault : s.causes.lineFault = true ↔ ∃ n, (s.lines.get n).flags.fault = true := by
    rw [State.causes_lineFault, List.any_eq_true]
    exact exists_congr fun n => and_iff_right (mem_lineNos n)
  have poolLow : s.engine.poolLow = true ↔ s.engine.poolFree < 64 := decide_eq_true_iff
  rw [State.attention_live live, ← fault, ← poolLow]
  simp [Causes.any, Causes.inter, State.causes, or_assoc]

/-- Settles O38: the request refused and held, its write, the report, and the line in each supply state. -/
theorem attentionIsMaskedAndRead : Obligations.AttentionIsMaskedAndRead := by
  refine ⟨⟨fun s b h => ⟨fun top => ?_, fun top => ?_⟩, fun s mask h => ⟨fun takes => ?_, fun lost => ?_⟩⟩,
    fun s h => ?_, fun s => ⟨fun live => ?_, fun elsewhere => ?_⟩⟩
  · exact exec_setAttentionMask_refused h (maskOf_refused top)
  · exact exec_setAttentionMask_held h (maskOf_accepted top)
  · rw [exec_maskWrite h, State.complete_of_takes (s := { s with mask := mask }) takes]
    rfl
  · rw [exec_maskWrite h, State.complete_of_not_takes (s := { s with mask := mask }) lost]
  · rw [exec_readAttention h, Causes.any_inter, State.causes_granted h]
    rfl
  · rw [State.attention_live_iff live]
    simp only [LineFlags.fault, Bool.or_eq_true, or_assoc]
  · refine State.attention_elsewhere ?_
    rintro (live | live) <;> simp [live] at elsewhere

end

end Sys2Proof.Machine

/-! # The backup cell -/

namespace Sys2Proof.Machine

section
variable {s : State} {low : Bool}

/-! ## The retention level (R185, R187) -/

/-- Without power only the model's own counter and queue outlive the reset state (R185, R187). -/
theorem State.unpowered_eq_reset (s : State) : s.unpowered = { State.reset with
    port := .started, supply := ⟨.unpowered, false, false, false⟩, freeIndex := s.freeIndex, pending := s.pending } := rfl

theorem exec_backupBelowRetention_retaining (retaining : s.supply.state = .retaining) :
    exec .backupBelowRetention s = .next s.unpowered := congrArg Host.Outcome.next (if_pos retaining)

theorem exec_backupBelowRetention_elsewhere (elsewhere : s.supply.state ≠ .retaining) :
    exec .backupBelowRetention s = .next s := congrArg Host.Outcome.next (if_neg elsewhere)

/-! ## The backup-low threshold (R189) -/

theorem exec_backupLowChange_powered (live : s.supply.state ≠ .retaining) (live' : s.supply.state ≠ .unpowered) :
    exec (.backupLowChange low) s = .next { s with supply := { s.supply with backupLow := low } } := by
  cases h : s.supply.state with
  | retaining => exact absurd h live
  | unpowered => exact absurd h live'
  | starting | running | stopping => simp only [exec, execBackupLowChange, h]

theorem exec_backupLowChange_powerless (powerless : s.supply.state = .retaining ∨ s.supply.state = .unpowered) :
    exec (.backupLowChange low) s = .next s := by
  rcases powerless with h | h <;> simp only [exec, execBackupLowChange, h]

end

/-- Settles O50: the cell below the retention level in RETAINING and elsewhere, and the flag with and without power. -/
theorem backupCellIsWatched : Obligations.BackupCellIsWatched := by
  refine fun s => ⟨fun retaining => ?_, exec_backupBelowRetention_elsewhere,
    fun _ live live' => exec_backupLowChange_powered live live', fun _ => exec_backupLowChange_powerless⟩
  rw [exec_backupBelowRetention_retaining retaining, State.unpowered_eq_reset]

end Sys2Proof.Machine
